-- ==== Sys2Proof/Word.lean ====
section
/-! DEFINITION. The word types of the machine and the two sizes every address check compares with
(spec/00_scope.md R6, R8, R9; spec/10_state.md R21, R25). -/

namespace Sys2Proof

/-- A general register, a memory byte, a timer, an immediate `kk`: 8 bits, unsigned (R9, R21, R30). -/
abbrev Byte := BitVec 8

/-- `I`, `pc`, a stack entry and the instruction word: 16 bits (R23, R25, R27, R70). -/
abbrev Word := BitVec 16

/-- The 12-bit address field `nnn` (R71). -/
abbrev Addr12 := BitVec 12

/-- The number of a general register, 0..15 (R21); `V[15]` is VF. -/
abbrev Reg := Fin 16

/-- VF, the register that seven instructions also write as a flag (R22). -/
abbrev VF : Reg := 15

/-- The greatest address of the store: 4096 bytes, "addresses 0..4095 valid" (R50). -/
abbrev lastAddr : Nat := 4095

/-- The greatest cell index of the framebuffer, 64 * 32 - 1 (R170). -/
abbrev lastCell : Nat := 2047

end Sys2Proof
end

