-- ==== Sys2Proof/Syntax.lean ====
section
/-! DEFINITION. The 34 instructions, one constructor per row of spec/opcode_table.json, in the table's order
(spec/30_encoding.md R73, R74, R81). Register fields are register numbers, `kk` and `nnn` are bits, and the
fields that are counts (R71: `x` of LD_MV and LD_VM, `n` of DRW) are natural numbers that `WellFormed` bounds. -/

namespace Sys2Proof

inductive Instr where
  /-- CLS, `00E0`: clear screen (R171). -/
  | cls
  /-- RET, `00EE`: return (R111). -/
  | ret
  /-- JMP nnn, `1nnn` (R108). -/
  | jmp (nnn : Addr12)
  /-- CALL nnn, `2nnn` (R110). -/
  | call (nnn : Addr12)
  /-- SE_VB Vx, kk, `3xkk` (R102). -/
  | seVB (x : Reg) (kk : Byte)
  /-- SNE_VB Vx, kk, `4xkk` (R103). -/
  | sneVB (x : Reg) (kk : Byte)
  /-- SE_VV Vx, Vy, `5xy0` (R104). -/
  | seVV (x y : Reg)
  /-- LD_VB Vx, kk, `6xkk` (R141). -/
  | ldVB (x : Reg) (kk : Byte)
  /-- ADD_VB Vx, kk, `7xkk` (R124). -/
  | addVB (x : Reg) (kk : Byte)
  /-- LD_VV Vx, Vy, `8xy0` (R142). -/
  | ldVV (x y : Reg)
  /-- OR Vx, Vy, `8xy1` (R121). -/
  | orVV (x y : Reg)
  /-- AND Vx, Vy, `8xy2` (R122). -/
  | andVV (x y : Reg)
  /-- XOR Vx, Vy, `8xy3` (R123). -/
  | xorVV (x y : Reg)
  /-- ADD_VV Vx, Vy, `8xy4` (R125). -/
  | addVV (x y : Reg)
  /-- SUB Vx, Vy, `8xy5` (R127). -/
  | sub (x y : Reg)
  /-- SHR Vx, `8xy6`: the field `y` is kept, since all 16 values of it are this instruction, and ignored (R77, R129). -/
  | shr (x y : Reg)
  /-- SUBN Vx, Vy, `8xy7` (R128). -/
  | subn (x y : Reg)
  /-- SHL Vx, `8xyE`: the field `y` is kept and ignored (R77, R130). -/
  | shl (x y : Reg)
  /-- SNE_VV Vx, Vy, `9xy0` (R105). -/
  | sneVV (x y : Reg)
  /-- LD_I nnn, `Annn` (R143). -/
  | ldI (nnn : Addr12)
  /-- JMP_VA nnn, `Bnnn` (R109). -/
  | jmpVA (nnn : Addr12)
  /-- RND Vx, kk, `Cxkk` (R165). -/
  | rnd (x : Reg) (kk : Byte)
  /-- DRW Vx, Vy, n, `Dxyn`: `n` is the count of sprite rows (R71, R172). -/
  | drw (x y : Reg) (n : Nat)
  /-- SKP Vx, `Ex9E` (R106). -/
  | skp (x : Reg)
  /-- SKNP Vx, `ExA1` (R107). -/
  | sknp (x : Reg)
  /-- LD_VDT Vx, `Fx07` (R162). -/
  | ldVDT (x : Reg)
  /-- LD_VK Vx, `Fx0A` (R161). -/
  | ldVK (x : Reg)
  /-- LD_DTV Vx, `Fx15` (R163). -/
  | ldDTV (x : Reg)
  /-- LD_STV Vx, `Fx18` (R164). -/
  | ldSTV (x : Reg)
  /-- ADD_I Vx, `Fx1E` (R126). -/
  | addI (x : Reg)
  /-- LD_F Vx, `Fx29` (R147). -/
  | ldF (x : Reg)
  /-- LD_B Vx, `Fx33` (R144). -/
  | ldB (x : Reg)
  /-- LD_MV, `Fx55`: the field `x` is the count of registers stored (R71, R145). -/
  | ldMV (count : Nat)
  /-- LD_VM, `Fx65`: the field `x` is the count of registers loaded (R71, R146). -/
  | ldVM (count : Nat)
  deriving DecidableEq, Repr

end Sys2Proof
end

