-- ==== Sys2Proof/WellFormed.lean ====
section
/-! DEFINITION. When an instruction term stands for an instruction of the hardware: every operand fits its field
(spec/30_encoding.md R71). Register numbers, `kk` and `nnn` fit by their types; a count is a 4-bit field. -/

namespace Sys2Proof

/-- Every operand fits its field (R71): three checks, one for each instruction that carries a
count, whose 4-bit field is "0 to 15" (R80). -/
def Instr.WellFormed : Instr → Bool
  | .drw _ _ n => n ≤ 15
  | .ldMV count => count ≤ 15
  | .ldVM count => count ≤ 15
  | .cls | .ret | .jmp _ | .call _ | .seVB _ _ | .sneVB _ _ | .seVV _ _ | .ldVB _ _ | .addVB _ _
  | .ldVV _ _ | .orVV _ _ | .andVV _ _ | .xorVV _ _ | .addVV _ _ | .sub _ _ | .shr _ _ | .subn _ _
  | .shl _ _ | .sneVV _ _ | .ldI _ | .jmpVA _ | .rnd _ _ | .skp _ | .sknp _ | .ldVDT _ | .ldVK _
  | .ldDTV _ | .ldSTV _ | .addI _ | .ldF _ | .ldB _ => true

end Sys2Proof
end

