-- ==== Sys2Proof/Decode.lean ====
section
/-! DEFINITION. The decoder, from bytes to an instruction or a named rejection, and after it the encoder
(spec/30_encoding.md R70, R71, R74 to R77, R82). The bit patterns are those of rule R74; the spec marks every
pattern "from general knowledge, not in source" (log entry 7). -/

namespace Sys2Proof

/-! ### The operand fields (R71) -/

/-- `x`, bits 11..8, as a register number. -/
def fieldX (op : Word) : Reg := (op.extractLsb' 8 4).toFin

/-- `y`, bits 7..4, as a register number. -/
def fieldY (op : Word) : Reg := (op.extractLsb' 4 4).toFin

/-- `n`, bits 3..0, as a count. -/
def fieldN (op : Word) : Nat := (op.extractLsb' 0 4).toNat

/-- `x` as a count, for LD_MV and LD_VM. -/
def fieldXCount (op : Word) : Nat := (op.extractLsb' 8 4).toNat

/-- `kk`, the low byte. -/
def fieldKK (op : Word) : Byte := op.extractLsb' 0 8

/-- `nnn`, the low 12 bits. -/
def fieldNNN (op : Word) : Addr12 := op.extractLsb' 0 12

/-! ### The opcode map (R74) -/

/-- One row of the opcode map: `op` selects the row iff `op & mask = bits` (R74). -/
structure OpcodeRow where
  mnemonic : String
  bits : Word
  mask : Word
  build : Word → Instr

/-- Rows 1 to 9 of R74. -/
def opcodeRowsLow : List OpcodeRow :=
  [⟨"CLS", 0x00E0, 0xFFFF, fun _ => .cls⟩,
   ⟨"RET", 0x00EE, 0xFFFF, fun _ => .ret⟩,
   ⟨"JMP", 0x1000, 0xF000, fun op => .jmp (fieldNNN op)⟩,
   ⟨"CALL", 0x2000, 0xF000, fun op => .call (fieldNNN op)⟩,
   ⟨"SE_VB", 0x3000, 0xF000, fun op => .seVB (fieldX op) (fieldKK op)⟩,
   ⟨"SNE_VB", 0x4000, 0xF000, fun op => .sneVB (fieldX op) (fieldKK op)⟩,
   ⟨"SE_VV", 0x5000, 0xF00F, fun op => .seVV (fieldX op) (fieldY op)⟩,
   ⟨"LD_VB", 0x6000, 0xF000, fun op => .ldVB (fieldX op) (fieldKK op)⟩,
   ⟨"ADD_VB", 0x7000, 0xF000, fun op => .addVB (fieldX op) (fieldKK op)⟩]

/-- Rows 10 to 18 of R74: major opcode 8. -/
def opcodeRowsEight : List OpcodeRow :=
  [⟨"LD_VV", 0x8000, 0xF00F, fun op => .ldVV (fieldX op) (fieldY op)⟩,
   ⟨"OR", 0x8001, 0xF00F, fun op => .orVV (fieldX op) (fieldY op)⟩,
   ⟨"AND", 0x8002, 0xF00F, fun op => .andVV (fieldX op) (fieldY op)⟩,
   ⟨"XOR", 0x8003, 0xF00F, fun op => .xorVV (fieldX op) (fieldY op)⟩,
   ⟨"ADD_VV", 0x8004, 0xF00F, fun op => .addVV (fieldX op) (fieldY op)⟩,
   ⟨"SUB", 0x8005, 0xF00F, fun op => .sub (fieldX op) (fieldY op)⟩,
   ⟨"SHR", 0x8006, 0xF00F, fun op => .shr (fieldX op) (fieldY op)⟩,
   ⟨"SUBN", 0x8007, 0xF00F, fun op => .subn (fieldX op) (fieldY op)⟩,
   ⟨"SHL", 0x800E, 0xF00F, fun op => .shl (fieldX op) (fieldY op)⟩]

/-- Rows 19 to 25 of R74: major opcodes 9 to E. -/
def opcodeRowsMid : List OpcodeRow :=
  [⟨"SNE_VV", 0x9000, 0xF00F, fun op => .sneVV (fieldX op) (fieldY op)⟩,
   ⟨"LD_I", 0xA000, 0xF000, fun op => .ldI (fieldNNN op)⟩,
   ⟨"JMP_VA", 0xB000, 0xF000, fun op => .jmpVA (fieldNNN op)⟩,
   ⟨"RND", 0xC000, 0xF000, fun op => .rnd (fieldX op) (fieldKK op)⟩,
   ⟨"DRW", 0xD000, 0xF000, fun op => .drw (fieldX op) (fieldY op) (fieldN op)⟩,
   ⟨"SKP", 0xE09E, 0xF0FF, fun op => .skp (fieldX op)⟩,
   ⟨"SKNP", 0xE0A1, 0xF0FF, fun op => .sknp (fieldX op)⟩]

/-- Rows 26 to 34 of R74: major opcode F. -/
def opcodeRowsHigh : List OpcodeRow :=
  [⟨"LD_VDT", 0xF007, 0xF0FF, fun op => .ldVDT (fieldX op)⟩,
   ⟨"LD_VK", 0xF00A, 0xF0FF, fun op => .ldVK (fieldX op)⟩,
   ⟨"LD_DTV", 0xF015, 0xF0FF, fun op => .ldDTV (fieldX op)⟩,
   ⟨"LD_STV", 0xF018, 0xF0FF, fun op => .ldSTV (fieldX op)⟩,
   ⟨"ADD_I", 0xF01E, 0xF0FF, fun op => .addI (fieldX op)⟩,
   ⟨"LD_F", 0xF029, 0xF0FF, fun op => .ldF (fieldX op)⟩,
   ⟨"LD_B", 0xF033, 0xF0FF, fun op => .ldB (fieldX op)⟩,
   ⟨"LD_MV", 0xF055, 0xF0FF, fun op => .ldMV (fieldXCount op)⟩,
   ⟨"LD_VM", 0xF065, 0xF0FF, fun op => .ldVM (fieldXCount op)⟩]

/-- The 34 rows of R74, in the rule's order. -/
def opcodeTable : List OpcodeRow := opcodeRowsLow ++ opcodeRowsEight ++ opcodeRowsMid ++ opcodeRowsHigh

/-! ### Decoding -/

/-- Why bytes are no instruction. -/
inductive DecodeError where
  /-- The word matches no row of the opcode map (R76). The step raises `UnrecognizedOpcode` for it. Safe: as the spec says. -/
  | unrecognized (op : Word)
  /-- Fewer than two bytes were given; every instruction is exactly two (R70). No step raises it: a fetch gives two bytes. Safe. -/
  | truncated
  deriving DecidableEq, Repr

/-- Decoding one instruction word (R75, R92): the one row it matches, or the rejection of R76. It reads no state. -/
def decodeWord (op : Word) : Except DecodeError Instr :=
  match opcodeTable.find? (fun row => op &&& row.mask == row.bits) with
  | some row => .ok (row.build op)
  | none => .error (.unrecognized op)

/-- The instruction word of two bytes, the one at the lower address first: big-endian (R54, R70). -/
def wordOfBytes (hi lo : Byte) : Word := hi ++ lo

/-- Decoding on any bytes: the first instruction and the bytes after it (R70). -/
def decode : List Byte → Except DecodeError (Instr × List Byte)
  | hi :: lo :: rest =>
    match decodeWord (wordOfBytes hi lo) with
    | .ok i => .ok (i, rest)
    | .error e => .error e
  | [_] => .error .truncated
  | [] => .error .truncated

/-! ### Encoding (R82) -/

/-- The four bits of a register field. -/
def regBits (r : Reg) : BitVec 4 := BitVec.ofFin r

/-- The four bits of a count field. -/
def countBits (n : Nat) : BitVec 4 := BitVec.ofNat 4 n

/-- Format A: major opcode and a 12-bit address (R72). -/
def wordA (t : BitVec 4) (nnn : Addr12) : Word := t ++ nnn

/-- Format XK: major opcode, register, byte (R72). -/
def wordXK (t : BitVec 4) (x : Reg) (kk : Byte) : Word := t ++ regBits x ++ kk

/-- Format XY: major opcode, two registers, function nibble (R72). -/
def wordXY (t : BitVec 4) (x y : Reg) (function : BitVec 4) : Word := t ++ regBits x ++ regBits y ++ function

/-- Format X: major opcode, one 4-bit field, function byte (R72). -/
def wordX (t : BitVec 4) (x : BitVec 4) (function : Byte) : Word := t ++ x ++ function

/-- The word of an instruction (R82): the fixed nibbles of its pattern and its operands in their fields. -/
def encode : Instr → Word
  | .cls => 0x00E0
  | .ret => 0x00EE
  | .jmp nnn => wordA 0x1 nnn
  | .call nnn => wordA 0x2 nnn
  | .seVB x kk => wordXK 0x3 x kk
  | .sneVB x kk => wordXK 0x4 x kk
  | .seVV x y => wordXY 0x5 x y 0x0
  | .ldVB x kk => wordXK 0x6 x kk
  | .addVB x kk => wordXK 0x7 x kk
  | .ldVV x y => wordXY 0x8 x y 0x0
  | .orVV x y => wordXY 0x8 x y 0x1
  | .andVV x y => wordXY 0x8 x y 0x2
  | .xorVV x y => wordXY 0x8 x y 0x3
  | .addVV x y => wordXY 0x8 x y 0x4
  | .sub x y => wordXY 0x8 x y 0x5
  | .shr x y => wordXY 0x8 x y 0x6
  | .subn x y => wordXY 0x8 x y 0x7
  | .shl x y => wordXY 0x8 x y 0xE
  | .sneVV x y => wordXY 0x9 x y 0x0
  | .ldI nnn => wordA 0xA nnn
  | .jmpVA nnn => wordA 0xB nnn
  | .rnd x kk => wordXK 0xC x kk
  | .drw x y n => wordXY 0xD x y (countBits n)
  | .skp x => wordX 0xE (regBits x) 0x9E
  | .sknp x => wordX 0xE (regBits x) 0xA1
  | .ldVDT x => wordX 0xF (regBits x) 0x07
  | .ldVK x => wordX 0xF (regBits x) 0x0A
  | .ldDTV x => wordX 0xF (regBits x) 0x15
  | .ldSTV x => wordX 0xF (regBits x) 0x18
  | .addI x => wordX 0xF (regBits x) 0x1E
  | .ldF x => wordX 0xF (regBits x) 0x29
  | .ldB x => wordX 0xF (regBits x) 0x33
  | .ldMV count => wordX 0xF (countBits count) 0x55
  | .ldVM count => wordX 0xF (countBits count) 0x65

/-- The two bytes of a word as memory holds them, the high byte first (R54). -/
def bytesOfWord (op : Word) : List Byte := [op.extractLsb' 8 8, op.extractLsb' 0 8]

/-- The mnemonic of an instruction, as the opcode map has it (R74, R81). -/
def Instr.mnemonic : Instr → String
  | .cls => "CLS"
  | .ret => "RET"
  | .jmp _ => "JMP"
  | .call _ => "CALL"
  | .seVB _ _ => "SE_VB"
  | .sneVB _ _ => "SNE_VB"
  | .seVV _ _ => "SE_VV"
  | .ldVB _ _ => "LD_VB"
  | .addVB _ _ => "ADD_VB"
  | .ldVV _ _ => "LD_VV"
  | .orVV _ _ => "OR"
  | .andVV _ _ => "AND"
  | .xorVV _ _ => "XOR"
  | .addVV _ _ => "ADD_VV"
  | .sub _ _ => "SUB"
  | .shr _ _ => "SHR"
  | .subn _ _ => "SUBN"
  | .shl _ _ => "SHL"
  | .sneVV _ _ => "SNE_VV"
  | .ldI _ => "LD_I"
  | .jmpVA _ => "JMP_VA"
  | .rnd _ _ => "RND"
  | .drw _ _ _ => "DRW"
  | .skp _ => "SKP"
  | .sknp _ => "SKNP"
  | .ldVDT _ => "LD_VDT"
  | .ldVK _ => "LD_VK"
  | .ldDTV _ => "LD_DTV"
  | .ldSTV _ => "LD_STV"
  | .addI _ => "ADD_I"
  | .ldF _ => "LD_F"
  | .ldB _ => "LD_B"
  | .ldMV _ => "LD_MV"
  | .ldVM _ => "LD_VM"

/-- The bytes of an instruction, lowest address first (R82). -/
def encodeBytes (i : Instr) : List Byte := bytesOfWord (encode i)

/-- The instruction word of a table row's bits: `nbits` bits are given, those above are zero. -/
def wordOfTable (nbits w : Nat) : Word := BitVec.ofNat 16 (w % 2 ^ nbits)

/-- What the decoder reads from a table row's word, laid out in memory order (R54). -/
def decodeTableWord (nbits w : Nat) : Option Instr :=
  match decode (bytesOfWord (wordOfTable nbits w)) with
  | .ok (i, _) => some i
  | .error _ => none

end Sys2Proof
end

