-- ==== Sys2Proof/Config.lean ====
section
/-! DEFINITION. What is fixed for the life of one core but open in the spec: the parameters STACK_DEPTH and
FONT (spec/00_scope.md R7), and the free random byte of a step (spec/10_state.md R33). -/

namespace Sys2Proof

/-- The parameters of a core (R7, R33), fixed for its life. `State.cfg` carries them and no step changes them,
so a statement about every state is a statement about every value of both. Log entries 1 and 2. -/
structure Config where
  /-- `STACK_DEPTH`: `some d`, or `none` for `unbounded` (R7, R27). -/
  stackDepth : Option Nat
  /-- `FONT`: 80 bytes, 16 glyphs of 5 bytes, glyph `d` at `5 * d` (R56, R57). -/
  font : Vector Byte 80
  deriving DecidableEq, Repr

/-- The default font, one glyph a line (R57, which marks the values "from general knowledge, not in source").
PRESUMED, unsafe for claims about drawn digits: log entry 2. -/
def defaultFont : Vector Byte 80 :=
  #v[0xF0, 0x90, 0x90, 0x90, 0xF0,  -- 0
     0x20, 0x60, 0x20, 0x20, 0x70,  -- 1
     0xF0, 0x10, 0xF0, 0x80, 0xF0,  -- 2
     0xF0, 0x10, 0xF0, 0x10, 0xF0,  -- 3
     0x90, 0x90, 0xF0, 0x10, 0x10,  -- 4
     0xF0, 0x80, 0xF0, 0x10, 0xF0,  -- 5
     0xF0, 0x80, 0xF0, 0x90, 0xF0,  -- 6
     0xF0, 0x10, 0x20, 0x40, 0x40,  -- 7
     0xF0, 0x90, 0xF0, 0x90, 0xF0,  -- 8
     0xF0, 0x90, 0xF0, 0x10, 0xF0,  -- 9
     0xF0, 0x90, 0xF0, 0x90, 0x90,  -- A
     0xE0, 0x90, 0xE0, 0x90, 0xE0,  -- B
     0xF0, 0x80, 0x80, 0x80, 0xF0,  -- C
     0xE0, 0x90, 0x90, 0x90, 0xE0,  -- D
     0xF0, 0x80, 0xF0, 0x80, 0xF0,  -- E
     0xF0, 0x80, 0xF0, 0x80, 0x80]  -- F

/-- The parameters the reset state carries: STACK_DEPTH 16 (R7, "Recommended 16", from general knowledge) and
the default font. PRESUMED, unsafe for claims that rest on the reset state's parameters: log entries 1 and 2. -/
def Config.default : Config := { stackDepth := some 16, font := defaultFont }

/-- The random bytes of the steps, the n-th draw at n: "a free input of each step, under no law" (R7, R33, R165).
It has no body, so nothing can be proved of a value of it. Log entry 3. -/
opaque Config.freeRnd : Nat → Byte

end Sys2Proof
end

