-- ==== Sys2Proof/Machine/State.lean ====
section
/-! DEFINITION. The whole state of the core (spec/10_state.md R20), why a step can stop, the causes of a fault
(spec/60_exceptions.md R180), and the state after reset (R34). Field names are the spec's. -/

namespace Sys2Proof.Machine

/-- The memory as the bytes that differ from what an unlisted address reads as: (address, byte) pairs in the canonical
form `Memory.wf` (Machine/Ops.lean). An unlisted address reads 0, the reset contents of R30 and R34. -/
abbrev Memory := List Host.Cell

/-- The framebuffer, 64 columns by 32 rows (R6, R29): row `r` is the r-th entry, column `c` its bit `c`, so that cell
`c + 64 * r` of the spec's flat index is bit `c` of row `r`. Log entry 10. -/
abbrev Screen := Vector (BitVec 64) 32

/-- `status`, one bit (R31): `RUNNING` (0) or `FAULTED` (1). -/
inductive Status where
  | running
  | faulted
  deriving DecidableEq, Repr

/-- `fault_info` (R31, R36): a value of 17 bits (the opcode, the address or the key value, absent for the two
stack faults) and `pc0`, the address of the instruction. -/
structure FaultInfo where
  value : Option (BitVec 17)
  pc0 : Word
  deriving DecidableEq, Repr

/-- The five conditions that fault (R180), each with what it records besides `pc0`. -/
inductive FaultCause where
  /-- Decode: the word matches no row of the opcode map (R181). -/
  | unrecognizedOpcode (op : Word)
  /-- RET on an empty stack (R183). -/
  | stackUnderflow
  /-- Fetch, LD_B, LD_MV, LD_VM, DRW: an address to be accessed exceeds 4095 (R182). -/
  | addressOutOfRange (addr : Nat)
  /-- CALL on a stack that holds STACK_DEPTH entries (R184). -/
  | stackOverflow
  /-- SKP, SKNP with `V[x] > 15` (R185). -/
  | keyIndexOutOfRange (k : Byte)
  deriving DecidableEq, Repr

/-- The state of the core: the tuple of R20, field by field, and the model's own two fields. -/
structure State where
  /-- `V[0..15]`, the general registers, VF among them (R21, R22). -/
  V : Vector Byte 16
  /-- `I`, the index register (R23). -/
  I : Word
  /-- `DT`, the delay timer (R24). -/
  DT : Byte
  /-- `ST`, the sound timer (R24). -/
  ST : Byte
  /-- `pc`, the program counter (R25). -/
  pc : Word
  /-- `stack`, the return addresses, the TOP FIRST (R27; the spec writes the top last). -/
  stack : List Word
  /-- `K[0..15]`, the keypad flags, true when pressed (R28). -/
  K : Vector Bool 16
  /-- `FB[0..2047]`, the framebuffer (R29). -/
  FB : Screen
  /-- `mem[0..4095]` (R30). -/
  mem : Memory
  /-- `status` of the fault record (R31). -/
  status : Status
  /-- `fault_code` of the fault record (R31, R36): 3 bits, values 1..5 once a fault has been raised. -/
  faultCode : BitVec 3
  /-- `fault_info` of the fault record (R31, R36). -/
  faultInfo : FaultInfo
  /-- THE MODEL'S OWN: how many random bytes the steps so far have drawn; the next step's byte is
  `Config.freeRnd draws` (R33, R165). Log entry 3. -/
  draws : Nat
  /-- THE MODEL'S OWN PLACE for the parameters STACK_DEPTH and FONT (R7, R33), which no step changes. Log entries 1 and 2. -/
  cfg : Config
  deriving DecidableEq, Repr

/-- Why a step has no next state. Raising a fault is NOT one of these: it is a next state with the fault record
written (R186); this is the step of a core that has faulted already. -/
inductive Fault where
  /-- Raised by `step` alone, on a core whose `status` is FAULTED: it executes nothing, changes nothing and returns
  the latched error (R188; spec/93_implementation_defined.md U13, "stuck"). Safe: the machine stops where the hardware
  stays as it is until the host resets it. Log entry 5. -/
  | latched (code : BitVec 3) (info : FaultInfo)
  deriving DecidableEq, Repr

/-- Why an operation has no meaning in the model. -/
inductive Refusal where
  /-- Raised by an arm of `exec` whose instruction has no meaning yet; none is left. Safe: nothing can be proved of it. -/
  | notModelled (mnemonic : String)
  /-- Raised by the host operation `Load` on more than 3584 bytes (R212: "the Load is refused"). Safe: as the spec says. -/
  | romTooLong (len : Nat)
  /-- Raised by the host operation `SetKeyPressed` on a key above 15 (R38: "is refused"). Safe: as the spec says. -/
  | keyOutOfDomain (k : Nat)
  deriving DecidableEq, Repr

/-- What an instruction or a step answers. -/
abbrev Result := Host.Outcome State Fault Refusal

/-- The state after `Reset` (R34, R210). `fault_code` and `fault_info` are "unspecified" there; the model names
0 and (absent, 0): DESIGN CHOICE, unsafe, log entry 4. `draws` and `cfg` are the model's own: log entries 1 to 3. -/
def State.reset : State where
  V := Vector.replicate 16 0
  I := 0
  DT := 0
  ST := 0
  pc := 0x200
  stack := []
  K := Vector.replicate 16 false
  FB := Vector.replicate 32 0
  mem := []
  status := .running
  faultCode := 0
  faultInfo := { value := none, pc0 := 0 }
  draws := 0
  cfg := Config.default

end Sys2Proof.Machine
end

