-- ==== Sys2Proof/Machine/Ops.lean ====
section
/-! DEFINITION. The named operations over memory, registers, stack, keypad and framebuffer; raising a fault, the one
way out of it, and the parts of a step around the instruction (fetch, timer decay). Every meaning is written over these. -/

namespace Sys2Proof.Machine

/-! ### Memory: single bytes (spec/20_memory.md R52) -/

/-- The byte at an address: the listed one, or 0, what an address nothing has written holds (R30, R34). -/
def Memory.read (m : Memory) (a : Nat) : Byte :=
  match m.find? (fun c => c.1 == a) with
  | some c => c.2
  | none => 0

/-- Puts a cell at its place in the rising order of addresses. -/
def Memory.place (cell : Host.Cell) : Memory → Memory
  | [] => [cell]
  | c :: m => if cell.1 < c.1 then cell :: c :: m else c :: Memory.place cell m

/-- The memory with byte `b` at address `a` and nothing else changed (R52). A zero byte is not listed. -/
def Memory.write (m : Memory) (a : Nat) (b : Byte) : Memory :=
  if b = 0 then m.filter (fun c => c.1 != a)
  else Memory.place (a, b) (m.filter (fun c => c.1 != a))

/-- The canonical form: addresses strictly rising and in the store (R50), no listed byte 0. -/
abbrev Memory.wf (m : Memory) : Prop :=
  m.Pairwise (fun c d => c.1 < d.1) ∧ ∀ c ∈ m, c.1 ≤ lastAddr ∧ c.2 ≠ 0

/-- Writes bytes at rising addresses from `a` on, lowest first (R144, R145, R212). -/
def Memory.writeBytes (m : Memory) (a : Nat) : List Byte → Memory
  | [] => m
  | b :: bs => Memory.writeBytes (m.write a b) (a + 1) bs

/-- The `n` bytes from address `a` on, lowest first (R172). -/
def Memory.readBytes (m : Memory) (a n : Nat) : List Byte :=
  (List.range n).map (fun i => m.read (a + i))

/-! ### Registers (R10, R21, R23, R24) -/

/-- `V[r]`. -/
def State.getV (s : State) (r : Reg) : Byte := s.V[r]

/-- `V[r] <- b`: no register is hardwired (R21). -/
def State.setV (s : State) (r : Reg) (b : Byte) : State := { s with V := s.V.set r b }

/-- `I <- w`. -/
def State.setI (s : State) (w : Word) : State := { s with I := w }

/-- `DT <- b`. -/
def State.setDT (s : State) (b : Byte) : State := { s with DT := b }

/-- `ST <- b`. -/
def State.setST (s : State) (b : Byte) : State := { s with ST := b }

/-- `pc <- w`. -/
def State.setPc (s : State) (w : Word) : State := { s with pc := w }

/-- The stack, replaced as a whole by `push` and `pop` (R27). -/
def State.setStack (s : State) (st : List Word) : State := { s with stack := st }

/-- The framebuffer, replaced as a whole by CLS and DRW (R29). -/
def State.setFB (s : State) (fb : Screen) : State := { s with FB := fb }

/-- The memory, replaced as a whole by a store (R52). -/
def State.setMem (s : State) (m : Memory) : State := { s with mem := m }

/-- `V[0..count-1] <- ` the bytes from address `a` on, in one move (R146). -/
def State.loadBlock (s : State) (a count : Nat) : State :=
  { s with V := s.V.mapIdx (fun j b => if j < count then s.mem.read (a + j) else b) }

/-- The random byte of the current step, the spec's `rnd` (R33, R165). -/
def State.rnd (s : State) : Byte := Config.freeRnd s.draws

/-! ### The program counter (R26, R94) -/

/-- `pc <- pc0 + 2`, over 16 bits (R94). -/
def State.advance (s : State) : State := s.setPc (s.pc + 2)

/-- A skip: `pc <- pc0 + 4` if the condition holds, else `pc0 + 2` (R101). -/
def State.skipIf (s : State) (condition : Bool) : State := s.setPc (if condition then s.pc + 4 else s.pc + 2)

/-! ### The call stack (R27) -/

/-- The stack already holds STACK_DEPTH entries (R27, R184); never so when STACK_DEPTH is `unbounded`. -/
def State.stackFull (s : State) : Bool :=
  match s.cfg.stackDepth with
  | some d => d ≤ s.stack.length
  | none => false

/-- `push(a)` (R27). -/
def State.push (s : State) (a : Word) : State := s.setStack (a :: s.stack)

/-! ### The keypad (R28) -/

/-- `K[k]`; there is no key above 15, and the instructions check the number first (R106). -/
def State.key (s : State) (k : Nat) : Bool := s.K[k]?.getD false

/-- The scan of R161: "keypad indices 0..15 in order", the last pressed one wins. -/
def State.lastPressed (s : State) : Option Nat :=
  (List.range 16).foldl (fun found k => if s.key k then some k else found) none

/-! ### The framebuffer (R29, R170) -/

/-- `FB[c]`, the cell of flat index `c`: column `c % 64` of row `c / 64`. -/
def Screen.cell (fb : Screen) (c : Nat) : Bool := (fb[c / 64]?.getD 0).getLsbD (c % 64)

/-- `FB[c] <- FB[c] ^ 1` (R172). -/
def Screen.flipCell (fb : Screen) (c : Nat) : Screen :=
  fb.setIfInBounds (c / 64) ((fb[c / 64]?.getD 0) ^^^ BitVec.twoPow 64 (c % 64))

/-- All cells 0 (R171). -/
def Screen.clear : Screen := Vector.replicate 32 0

/-- "If that index would exceed the grid's last valid index, clamp it to the last cell" (R172). -/
def clampCell (t : Nat) : Nat := if lastCell < t then lastCell else t

/-- The cells that one sprite row meets, column 0 (bit 7) first: `t = cx + j + (cy + i) * 64`, clamped (R172). -/
def rowHits (cx cy i : Nat) (row : Byte) : List Nat :=
  ((List.range 8).filter (fun j => row.getLsbD (7 - j))).map (fun j => clampCell (cx + j + (cy + i) * 64))

/-- The cells that the set bits of a sprite meet, row by row, in the order of R172's loop. -/
def spriteHits (cx cy : Nat) (rows : List Byte) : List Nat :=
  rows.zipIdx.flatMap (fun r => rowHits cx cy r.2 r.1)

/-- One set sprite bit landing on cell `c`: the collision is noted if the cell is 1, then the cell is flipped (R172). -/
def hitCell (p : Screen × Bool) (c : Nat) : Screen × Bool := (p.1.flipCell c, p.2 || p.1.cell c)

/-- The blit: every hit in order, from no collision (R172). -/
def blit (fb : Screen) (hits : List Nat) : Screen × Bool := hits.foldl hitCell (fb, false)

/-! ### Faults: raising one, and the one way out (spec/60_exceptions.md) -/

/-- The numeric code of a fault (R180). -/
def FaultCause.code : FaultCause → BitVec 3
  | .unrecognizedOpcode _ => 1
  | .stackUnderflow => 2
  | .addressOutOfRange _ => 3
  | .stackOverflow => 4
  | .keyIndexOutOfRange _ => 5

/-- What a fault records besides `pc0` (R180, R36): nothing for the two stack faults. -/
def FaultCause.value : FaultCause → Option (BitVec 17)
  | .unrecognizedOpcode op => some (op.setWidth 17)
  | .stackUnderflow => none
  | .addressOutOfRange addr => some (BitVec.ofNat 17 addr)
  | .stackOverflow => none
  | .keyIndexOutOfRange k => some (k.setWidth 17)

/-- `raise F(info)` on the state before the step (R186, R187): `status`, `fault_code` and `fault_info` are written and
nothing else; `pc` keeps the address of the faulting instruction, which is also the `pc0` recorded (R191). -/
def raise (cause : FaultCause) (s : State) : State :=
  { s with status := .faulted, faultCode := cause.code, faultInfo := { value := cause.value, pc0 := s.pc } }

/-- An instruction that raises: it takes the fault, a next state (R186). -/
def raised (cause : FaultCause) (s : State) : Result := .next (raise cause s)

/-- `Reset` (R210): there is no return from a fault (R192), and this host operation is the only way out of FAULTED.
It sets every piece of state of R34; the parameters are fixed for the life of the core and the draws go on. -/
def resetCore (s : State) : State := { State.reset with cfg := s.cfg, draws := s.draws }

/-! ### The parts of a step around the instruction (spec/40_step_cycle.md) -/

/-- Fetch (R91): the two bytes at `pc0` and `pc0 + 1`, the first the high byte (R54), or the address that is out of range. -/
def fetch (s : State) : Except FaultCause Word :=
  if lastAddr < s.pc.toNat then .error (.addressOutOfRange s.pc.toNat)
  else if lastAddr < s.pc.toNat + 1 then .error (.addressOutOfRange (s.pc.toNat + 1))
  else .ok (wordOfBytes (s.mem.read s.pc.toNat) (s.mem.read (s.pc.toNat + 1)))

/-- One timer's decay: down by 1, floor at 0 (R95). -/
def decayTimer (t : Byte) : Byte := if t = 0 then 0 else t - 1

/-- The end of a committed step: both timers decay (R95), and the step's random byte is used up (R33). -/
def endStep (s : State) : State :=
  { s with DT := decayTimer s.DT, ST := decayTimer s.ST, draws := s.draws + 1 }

/-- What a step adds after the instruction: the end of the step if it committed, nothing if it raised (R90, R95, R186). -/
def finishStep (s : State) : State :=
  match s.status with
  | .running => endStep s
  | .faulted => s

/-- The next state an outcome holds, if any. -/
def nextState : Result → Option State
  | .next s => some s
  | .fault _ => none
  | .refused _ => none

end Sys2Proof.Machine
end

