-- ==== Sys2Proof/Machine/Flags.lean ====
section
/-! DEFINITION. The flag computations (spec/10_state.md R22, spec/42_alu.md): what VF receives, always 0 or 1. -/

namespace Sys2Proof.Machine

/-- A flag as a byte: 1 or 0. -/
def flagByte (condition : Bool) : Byte := if condition then 1 else 0

/-- ADD_VV: the widened sum exceeds 255 (R125). -/
def carryFlag (a b : Byte) : Byte := flagByte (255 < a.toNat + b.toNat)

/-- ADD_I: the integer sum `I + V[x]` exceeds 255, "not 4095" (R126). -/
def indexFlag (i : Word) (a : Byte) : Byte := flagByte (255 < i.toNat + a.toNat)

/-- SUB, and SUBN with its operands exchanged: strictly greater, so equal operands give 0 (R127, R128). -/
def greaterFlag (a b : Byte) : Byte := flagByte (b.toNat < a.toNat)

/-- SHR: bit 0 before the shift (R129). -/
def lowBitFlag (a : Byte) : Byte := flagByte (a.getLsbD 0)

/-- SHL: "(Vx & 0xF0) >> 7 == 1" (R130). -/
def highBitFlag (a : Byte) : Byte := flagByte ((a &&& 0xF0) >>> 7 == 1)

/-- The flag write, `V[15] <- f` (R22). -/
def State.setFlag (s : State) (f : Byte) : State := s.setV VF f

end Sys2Proof.Machine
end

