-- ==== Sys2Proof/Machine/Operands.lean ====
section
/-! DEFINITION. The operand forms: zero-extended addresses and registers, the one addressing mode of data with its
range check (spec/43_load_store.md R140), and the key number (spec/41_control_flow.md R106). -/

namespace Sys2Proof.Machine

/-- `zext_16(nnn)` (R108). -/
def addressOperand (nnn : Addr12) : Word := nnn.setWidth 16

/-- `zext_16(V[r])` (R109, R147). -/
def State.wideV (s : State) (r : Reg) : Word := (s.getV r).setWidth 16

/-- The effective address `I + i`, over the integers and without wrap (R53, R140). -/
def effAddr (s : State) (i : Nat) : Nat := s.I.toNat + i

/-- The addresses `I`, ..., `I + n - 1` of an access of `n` bytes, lowest offset first (R140). -/
def accessAddrs (s : State) (n : Nat) : List Nat := (List.range n).map (effAddr s)

/-- The first address out of the store, in access order (R140, R182). -/
def firstOutOfRange (addrs : List Nat) : Option Nat := addrs.find? (fun a => decide (lastAddr < a))

/-- An instruction that accesses `n` bytes from `I` on: all addresses are checked before anything is written, and the
first one out of range raises `AddressOutOfRange` (R140, R187); else the instruction answers `t`. -/
def withAccess (n : Nat) (s t : State) : Result :=
  match firstOutOfRange (accessAddrs s n) with
  | some a => raised (.addressOutOfRange a) s
  | none => .next t

/-- The greatest key number (R28). -/
def lastKey : Nat := 15

/-- An instruction that tests key `V[x]`, all 8 bits of it: above 15 it raises `KeyIndexOutOfRange` (R106, R107, R185);
else it skips when the key's flag is `pressed`. -/
def skipOnKey (pressed : Bool) (x : Reg) (s : State) : Result :=
  if lastKey < (s.getV x).toNat then raised (.keyIndexOutOfRange (s.getV x)) s
  else .next (s.skipIf (s.key (s.getV x).toNat == pressed))

end Sys2Proof.Machine
end

