-- ==== Sys2Proof/Machine/Alu.lean ====
section
/-! DEFINITION. The ALU instructions (spec/42_alu.md). The statements of a rule run in the order written: except in
ADD_VV the flag is written first and the result is computed from the registers as that write left them (R11, R131). -/

namespace Sys2Proof.Machine

/-- OR (R121): `V[x] <- V[x] | V[y]`; VF is no flag here. -/
def execOr (x y : Reg) (s : State) : Result := .next (s.setV x (s.getV x ||| s.getV y)).advance

/-- AND (R122): `V[x] <- V[x] & V[y]`. -/
def execAnd (x y : Reg) (s : State) : Result := .next (s.setV x (s.getV x &&& s.getV y)).advance

/-- XOR (R123): `V[x] <- V[x] ^ V[y]`. -/
def execXor (x y : Reg) (s : State) : Result := .next (s.setV x (s.getV x ^^^ s.getV y)).advance

/-- ADD_VB (R124): modulo 256, no flag. -/
def execAddVB (x : Reg) (kk : Byte) (s : State) : Result := .next (s.setV x (s.getV x + kk)).advance

/-- ADD_VV (R125): the sum is taken before any write, then the flag, then the result. -/
def execAddVV (x y : Reg) (s : State) : Result :=
  .next ((s.setFlag (carryFlag (s.getV x) (s.getV y))).setV x (s.getV x + s.getV y)).advance

/-- ADD_I (R126): the flag, then `I <- (I + V[x]) mod 65536` with `V[x]` read after it. -/
def execAddI (x : Reg) (s : State) : Result :=
  let flagged := s.setFlag (indexFlag s.I (s.getV x))
  .next (flagged.setI (s.I + flagged.wideV x)).advance

/-- SUB (R127): the flag, then `V[x] - V[y]` read after it, modulo 256. -/
def execSub (x y : Reg) (s : State) : Result :=
  let flagged := s.setFlag (greaterFlag (s.getV x) (s.getV y))
  .next (flagged.setV x (flagged.getV x - flagged.getV y)).advance

/-- SUBN (R128): the flag, then `V[y] - V[x]` read after it, modulo 256. -/
def execSubn (x y : Reg) (s : State) : Result :=
  let flagged := s.setFlag (greaterFlag (s.getV y) (s.getV x))
  .next (flagged.setV x (flagged.getV y - flagged.getV x)).advance

/-- SHR (R129): the flag, then the logical shift of `V[x]` read after it; `y` is ignored (R77). -/
def execShr (x _y : Reg) (s : State) : Result :=
  let flagged := s.setFlag (lowBitFlag (s.getV x))
  .next (flagged.setV x (flagged.getV x >>> 1)).advance

/-- SHL (R130): the flag, then `V[x]` read after it, doubled modulo 256; `y` is ignored (R77). -/
def execShl (x _y : Reg) (s : State) : Result :=
  let flagged := s.setFlag (highBitFlag (s.getV x))
  .next (flagged.setV x (flagged.getV x * 2)).advance

end Sys2Proof.Machine
end

