-- ==== Sys2Proof/Machine/ControlFlow.lean ====
section
/-! DEFINITION. Control flow (spec/41_control_flow.md): skips, jumps, call and return. A target is not checked when it
is written to `pc`, only when it is fetched from (R100). -/

namespace Sys2Proof.Machine

/-- SE_VB (R102): skip if `V[x] = kk`. -/
def execSeVB (x : Reg) (kk : Byte) (s : State) : Result := .next (s.skipIf (s.getV x == kk))

/-- SNE_VB (R103): skip if `V[x] != kk`. -/
def execSneVB (x : Reg) (kk : Byte) (s : State) : Result := .next (s.skipIf (s.getV x != kk))

/-- SE_VV (R104): skip if `V[x] = V[y]`. -/
def execSeVV (x y : Reg) (s : State) : Result := .next (s.skipIf (s.getV x == s.getV y))

/-- SNE_VV (R105): skip if `V[x] != V[y]`. -/
def execSneVV (x y : Reg) (s : State) : Result := .next (s.skipIf (s.getV x != s.getV y))

/-- SKP (R106): skip if key `V[x]` is pressed. -/
def execSkp (x : Reg) (s : State) : Result := skipOnKey true x s

/-- SKNP (R107): skip if key `V[x]` is not pressed. -/
def execSknp (x : Reg) (s : State) : Result := skipOnKey false x s

/-- JMP (R108): `pc <- zext_16(nnn)`. -/
def execJmp (nnn : Addr12) (s : State) : Result := .next (s.setPc (addressOperand nnn))

/-- JMP_VA (R109): `pc <- zext_16(nnn) + zext_16(V[0])`, not masked to 12 bits. -/
def execJmpVA (nnn : Addr12) (s : State) : Result := .next (s.setPc (addressOperand nnn + s.wideV 0))

/-- CALL (R110): `StackOverflow` on a full stack, else push `pc0 + 2` and jump. -/
def execCall (nnn : Addr12) (s : State) : Result :=
  if s.stackFull then raised .stackOverflow s
  else .next ((s.push (s.pc + 2)).setPc (addressOperand nnn))

/-- RET (R111): `StackUnderflow` on an empty stack, else `pc` is exactly the popped value. -/
def execRet (s : State) : Result :=
  match s.stack with
  | [] => raised .stackUnderflow s
  | top :: rest => .next ((s.setStack rest).setPc top)

end Sys2Proof.Machine
end

