-- ==== Sys2Proof/Machine/Framebuffer.lean ====
section
/-! DEFINITION. The framebuffer instructions (spec/45_framebuffer.md): clear, and the XOR sprite blit with collision. -/

namespace Sys2Proof.Machine

/-- CLS (R171): every cell 0; VF is not written. -/
def execCls (s : State) : Result := .next (s.setFB Screen.clear).advance

/-- The hits of DRW on a state (R172): coordinates are `V[x]` and `V[y]`, read before VF is reset, and the sprite is the
`n` bytes from `I` on. -/
def drawHits (x y : Reg) (n : Nat) (s : State) : List Nat :=
  spriteHits (s.getV x).toNat (s.getV y).toNat (s.mem.readBytes (effAddr s 0) n)

/-- DRW (R172): VF becomes the collision flag, also when `n = 0`, and every hit flips its cell. -/
def execDrw (x y : Reg) (n : Nat) (s : State) : Result :=
  let drawn := blit s.FB (drawHits x y n s)
  withAccess n s ((s.setFlag (flagByte drawn.2)).setFB drawn.1).advance

end Sys2Proof.Machine
end

