-- ==== Sys2Proof/Machine/KeypadTimersRandom.lean ====
section
/-! DEFINITION. Keypad wait, timer transfers and random (spec/44_keypad_timers_random.md). The decay of the step comes
after each of these (`finishStep`, R95), so a timer written here ends the step one lower. -/

namespace Sys2Proof.Machine

/-- LD_VK (R161): the highest pressed key into `V[x]`; with none pressed `pc` stays, so that the instruction runs again. -/
def execLdVK (x : Reg) (s : State) : Result :=
  match s.lastPressed with
  | some k => .next (s.setV x (BitVec.ofNat 8 k)).advance
  | none => .next (s.setPc s.pc)

/-- LD_VDT (R162): `V[x] <- DT`, as the previous step left it. -/
def execLdVDT (x : Reg) (s : State) : Result := .next (s.setV x s.DT).advance

/-- LD_DTV (R163): `DT <- V[x]`. -/
def execLdDTV (x : Reg) (s : State) : Result := .next (s.setDT (s.getV x)).advance

/-- LD_STV (R164): `ST <- V[x]`. -/
def execLdSTV (x : Reg) (s : State) : Result := .next (s.setST (s.getV x)).advance

/-- RND (R165): `V[x] <- rnd & kk`, with `rnd` the free byte of this step. -/
def execRnd (x : Reg) (kk : Byte) (s : State) : Result := .next (s.setV x (s.rnd &&& kk)).advance

end Sys2Proof.Machine
end

