-- ==== Sys2Proof/Machine/LoadStore.lean ====
section
/-! DEFINITION. Loads and stores (spec/43_load_store.md). `I` is never changed by an access (R140). -/

namespace Sys2Proof.Machine

/-- LD_VB (R141): `V[x] <- kk`. -/
def execLdVB (x : Reg) (kk : Byte) (s : State) : Result := .next (s.setV x kk).advance

/-- LD_VV (R142): `V[x] <- V[y]`. -/
def execLdVV (x y : Reg) (s : State) : Result := .next (s.setV x (s.getV y)).advance

/-- LD_I (R143): `I <- zext_16(nnn)`. -/
def execLdI (nnn : Addr12) (s : State) : Result := .next (s.setI (addressOperand nnn)).advance

/-- LD_F (R147): `I <- zext_16(V[x]) * 5`, not masked to a nibble. -/
def execLdF (x : Reg) (s : State) : Result := .next (s.setI (s.wideV x * 5)).advance

/-- The three bytes LD_B stores (R144): `v / 100`, `(v / 100) mod 10`, `(v mod 100) mod 10`, "not to be fixed". -/
def bcdBytes (v : Byte) : List Byte :=
  [BitVec.ofNat 8 (v.toNat / 100), BitVec.ofNat 8 (v.toNat / 100 % 10), BitVec.ofNat 8 (v.toNat % 100 % 10)]

/-- LD_B (R144): the three bytes at `I`, `I + 1`, `I + 2`. -/
def execLdB (x : Reg) (s : State) : Result :=
  withAccess 3 s (s.setMem (s.mem.writeBytes (effAddr s 0) (bcdBytes (s.getV x)))).advance

/-- LD_MV (R145): `V[0..count-1]` to memory from `I` on; a count of 0 stores nothing and cannot fault. -/
def execLdMV (count : Nat) (s : State) : Result :=
  withAccess count s (s.setMem (s.mem.writeBytes (effAddr s 0) (s.V.toList.take count))).advance

/-- LD_VM (R146): `V[0..count-1]` from memory from `I` on; a count of 0 loads nothing and cannot fault. -/
def execLdVM (count : Nat) (s : State) : Result :=
  withAccess count s (s.loadBlock (effAddr s 0) count).advance

end Sys2Proof.Machine
end

