-- ==== Sys2Proof/Machine/Step.lean ====
section
/-! DEFINITION. One step of the core (spec/40_step_cycle.md R90), and the placing of an instruction word where the next
step fetches it. Every part of a step that could be misread stands in Machine/Ops.lean; this file only joins them. -/

namespace Sys2Proof.Machine

/-- `Step` (R90, R189): the latched fault first, then fetch, decode, the instruction, and the timer decay. A condition
that faults is a next state with the fault record written (R186); a faulted core has no next state (R188). -/
def step (s : State) : Host.Outcome State Fault Refusal :=
  match s.status with
  | .faulted => .fault (.latched s.faultCode s.faultInfo)
  | .running =>
    match fetch s with
    | .error cause => raised cause s
    | .ok op =>
      match decodeWord op with
      | .error _ => raised (.unrecognizedOpcode op) s
      | .ok i =>
        match exec i s with
        | .next t => .next (finishStep t)
        | .fault r => .fault r
        | .refused r => .refused r

/-- The state with a table row's word stored where the next step fetches, high byte first (R54). The fetch needs a
running core and a `pc` of at most 4094 (R91): where the state has neither, they are set. Log entry 12. -/
def State.withFetchWord (s : State) (nbits w : Nat) : State :=
  let at_ : Word := if s.pc.toNat < lastAddr then s.pc else 0x200
  { s with
    status := .running
    pc := at_
    mem := s.mem.writeBytes at_.toNat (bytesOfWord (wordOfTable nbits w)) }

end Sys2Proof.Machine
end

