-- ==== Sys2Proof/Machine/HostOps.lean ====
section
/-! DEFINITION. The operations of the host (spec/10_state.md R38 to R40): the closed list by which anything outside the
core acts on it, each atomic and between steps (R39). `Reset` is `resetCore` in Machine/Ops.lean. Log entry 11. -/

namespace Sys2Proof.Machine

/-- What `Step` returns to the host: `Ok` or `Err(code, info)` (R38, R90). -/
inductive StepReturn where
  | ok
  | err (code : BitVec 3) (info : FaultInfo)
  deriving DecidableEq, Repr

/-- The return of a step that left the core in this state: the fault record is what the error carries (R186). -/
def State.stepReturn (s : State) : StepReturn :=
  match s.status with
  | .running => .ok
  | .faulted => .err s.faultCode s.faultInfo

/-- `Step` as the host sees it (R90, R188): the state after and the return. A faulted core is left as it is and
returns the latched error again. -/
def hostStep (s : State) : State × StepReturn :=
  match step s with
  | .next t => (t, t.stepReturn)
  | .fault _ => (s, s.stepReturn)
  | .refused _ => (s, s.stepReturn)

/-- The program's first address, 0x200 (R56, R212). -/
def programBase : Nat := 512

/-- The greatest length of a ROM: 4096 - 512 (R212). -/
def maxRom : Nat := 3584

/-- `Load(rom)` (R212): the font at 0..79 and the ROM from 512 on, and nothing else; a longer ROM is refused. -/
def load (rom : List Byte) (s : State) : Result :=
  if maxRom < rom.length then .refused (.romTooLong rom.length)
  else .next (s.setMem ((s.mem.writeBytes 0 s.cfg.font.toList).writeBytes programBase rom))

/-- `SetKeyPressed(k)` (R38): `K[k] <- 1` for `k` in 0..15, else refused. -/
def setKeyPressed (k : Nat) (s : State) : Result :=
  if lastKey < k then .refused (.keyOutOfDomain k)
  else .next { s with K := s.K.setIfInBounds k true }

/-- `ResetKeys` (R38): all 16 flags 0. -/
def resetKeys (s : State) : State := { s with K := Vector.replicate 16 false }

/-- `ReadFramebuffer` (R38): the 2048 cells, row-major; it changes nothing. -/
def readFramebuffer (s : State) : List Bool := (List.range 2048).map s.FB.cell

/-- `ReadRegisters` (R38): `V[0..15]`; it changes nothing. -/
def readRegisters (s : State) : Vector Byte 16 := s.V

/-- `ReadTimers` (R38): `DT` and `ST`; it changes nothing. -/
def readTimers (s : State) : Byte × Byte := (s.DT, s.ST)

end Sys2Proof.Machine
end

