-- ==== Sys2Proof/Safety.lean ====
section
/-! DEFINITION. The terms claims are stated in: what a safe run is, the invariant of the machine, what an instruction may
change (its footprint and frame), and when the next step runs a given instruction. -/

namespace Sys2Proof.Machine

/-! ### Safe runs -/

/-- The core is running: no fault has been raised since reset (spec/60_exceptions.md R188: "a claim about a program takes
`status = RUNNING` at its end as part of what it proves"). -/
abbrev State.Running (s : State) : Prop := s.status = .running

/-- A run of `k` steps is safe when it ends in a state whose core is running; by R188 no step of it then faulted. -/
def SafeRun (k : Nat) (s : State) : Prop := ∃ t, Sys2Proof.core.run k s = .next t ∧ State.Running t

/-! ### The invariant -/

/-- What holds of every state that operations of R38 can reach from reset. -/
structure State.Inv (s : State) : Prop where
  /-- Memory keeps its canonical form, inside the 4096-byte store (R50). -/
  memory : s.mem.wf
  /-- "No reachable `pc` exceeds 4350" (R25). -/
  counter : s.pc.toNat ≤ 4350
  /-- "every entry is in 2..4096" (R27). -/
  returns : ∀ a ∈ s.stack, 2 ≤ a.toNat ∧ a.toNat ≤ 4096
  /-- The stack holds at most STACK_DEPTH entries (R20, R27). -/
  depth : ∀ d, s.cfg.stackDepth = some d → s.stack.length ≤ d
  /-- A faulted core has one of the five codes (R180) and its `pc` is still the `pc0` recorded (R187). -/
  fault : s.status = .faulted → 1 ≤ s.faultCode.toNat ∧ s.faultCode.toNat ≤ 5 ∧ s.faultInfo.pc0 = s.pc

/-! ### Frames -/

/-- What an instruction may change besides `pc`: registers, the special registers, the stack, the framebuffer, and the
bytes it stores to. -/
structure Footprint where
  regs : List Reg := []
  index : Bool := false
  delay : Bool := false
  sound : Bool := false
  stack : Bool := false
  screen : Bool := false
  stores : List Nat := []
  deriving DecidableEq, Repr

/-- Everything outside the footprint and `pc` is as before: every register not named, `I`, `DT`, `ST`, the stack, every
framebuffer cell and every byte of memory, and always the keypad, the fault record, and the model's own fields. -/
structure Frame (w : Footprint) (s t : State) : Prop where
  regs : ∀ r, r ∉ w.regs → t.getV r = s.getV r
  index : w.index = false → t.I = s.I
  delay : w.delay = false → t.DT = s.DT
  sound : w.sound = false → t.ST = s.ST
  stack : w.stack = false → t.stack = s.stack
  screen : w.screen = false → ∀ c, t.FB.cell c = s.FB.cell c
  memory : ∀ a, a ∉ w.stores → t.mem.read a = s.mem.read a
  keys : t.K = s.K
  status : t.status = s.status
  faultCode : t.faultCode = s.faultCode
  faultInfo : t.faultInfo = s.faultInfo
  draws : t.draws = s.draws
  cfg : t.cfg = s.cfg

/-- `t` is `s` with a fault of this cause taken (R186, R187): the record is written, with `pc0` the address of the
instruction, and nothing else is changed. -/
def TakesFault (code : BitVec 3) (value : Option (BitVec 17)) (s t : State) : Prop :=
  t = { s with status := .faulted, faultCode := code, faultInfo := { value := value, pc0 := s.pc } }

/-- The values `Reset` leaves (R34), field by field; the two fault fields are "unspecified" and not named. -/
structure AtReset (t : State) : Prop where
  regs : ∀ r, t.getV r = 0
  index : t.I = 0
  delay : t.DT = 0
  sound : t.ST = 0
  counter : t.pc = 0x200
  stack : t.stack = []
  keys : ∀ k : Fin 16, t.K[k] = false
  screen : ∀ c, t.FB.cell c = false
  memory : ∀ a, t.mem.read a = 0
  status : t.status = .running

/-! ### The instruction a step runs -/

/-- The core is running and the word at `pc` decodes to `i` (R90, R91): the next step runs `i`. -/
def Fetches (s : State) (i : Instr) : Prop :=
  s.status = .running ∧ s.pc.toNat ≤ 4094 ∧
    decodeWord (s.mem.read s.pc.toNat ++ s.mem.read (s.pc.toNat + 1)) = .ok i

end Sys2Proof.Machine
end

