-- ==== Sys2Proof/Certificates/Slice0/Obligations.lean ====
section
/-! DEFINITION. The statements about the machine, one definition each, with the rules of the spec they formalise. Effects
of an instruction are stated of `exec`; what a step adds to them is `StepRunsTheDecodedInstruction` and
`TimersDecayOnceAfterEveryCommittedStep`. Encodings are stated with the word formats of spec/30_encoding.md R72. -/

open Sys2Proof Sys2Proof.Machine

namespace Sys2Proof

/-- `h(c)` of spec/45_framebuffer.md R173: "the number of set sprite bits whose clamped index is `c`". -/
def drawHitCount (s : State) (x y : Reg) (n c : Nat) : Nat :=
  ((List.range n).map (fun i => (List.range 8).countP (fun j =>
    (s.mem.read (s.I.toNat + i)).getLsbD (7 - j) &&
      min ((s.getV x).toNat + j + ((s.getV y).toNat + i) * 64) 2047 == c))).sum

/-- The `n` bytes from `I` on are all in the store (spec/60_exceptions.md R182). -/
def SpriteInStore (s : State) (n : Nat) : Prop := n = 0 ∨ s.I.toNat + n - 1 ≤ 4095

/-- The lowest address above 4095 of an access that starts at `I` and leaves the store (R182). -/
def lowestOffending (s : State) : Nat := if 4095 < s.I.toNat then s.I.toNat else 4096

end Sys2Proof

/-! ### Reset and the host -/

/-- R34: the state after reset, but for the two fault fields it leaves unspecified. -/
def Obligations.ResetLeavesTheSpecifiedState : Prop := AtReset State.reset

/-- R210: `Reset` from any state, a faulted one too, leaves the values of R34. That the parameters stay is the model's
choice, log entry 11. -/
def Obligations.ResetOperationLeavesTheSpecifiedState : Prop :=
  ∀ s : State, AtReset (resetCore s) ∧ (resetCore s).cfg = s.cfg

/-- R212: `Load` writes the font and the ROM and nothing else; a ROM of more than 3584 bytes is refused. -/
def Obligations.LoadWritesFontAndRomOnly : Prop :=
  ∀ (rom : List Byte) (s : State),
    (rom.length ≤ 3584 → ∃ t, load rom s = .next t ∧ t = { s with mem := t.mem } ∧
      (∀ a (h : a < 80), t.mem.read a = s.cfg.font[a]) ∧
      (∀ a (h : a < rom.length), t.mem.read (512 + a) = rom[a]) ∧
      (∀ a, 80 ≤ a → (a < 512 ∨ 512 + rom.length ≤ a) → t.mem.read a = s.mem.read a)) ∧
    (3584 < rom.length → load rom s = .refused (.romTooLong rom.length))

/-- R38: the two keypad operations, and what is refused. -/
def Obligations.KeypadOperationsSetOneOrClearAll : Prop :=
  ∀ (k : Nat) (s : State),
    (k ≤ 15 → ∃ t, setKeyPressed k s = .next t ∧ t = { s with K := t.K } ∧
      ∀ j : Fin 16, t.K[j] = (decide (j.val = k) || s.K[j])) ∧
    (15 < k → setKeyPressed k s = .refused (.keyOutOfDomain k)) ∧
    (resetKeys s = { s with K := (resetKeys s).K } ∧ ∀ j : Fin 16, (resetKeys s).K[j] = false)

/-! ### Encoding -/

/-- Words of spec/95_test_vectors.md 2.1 and of R82, and what they decode to. -/
def Obligations.WrittenOutWordsDecode : Prop :=
  decodeWord 0x00E0 = .ok .cls ∧ decodeWord 0x1ABC = .ok (.jmp 0xABC) ∧ decodeWord 0x4F00 = .ok (.sneVB 15 0) ∧
  decodeWord 0x83A4 = .ok (.addVV 3 10) ∧ decodeWord 0x812E = .ok (.shl 1 2) ∧ decodeWord 0xD125 = .ok (.drw 1 2 5) ∧
  decodeWord 0xE4A1 = .ok (.sknp 4) ∧ decodeWord 0xF255 = .ok (.ldMV 2) ∧
  decodeWord 0x5121 = .error (.unrecognized 0x5121) ∧ decodeWord 0x0000 = .error (.unrecognized 0)

/-- No bit of an encoding is dropped: every well-formed instruction is read back from its word (R82). -/
def Obligations.DecodingUndoesEncoding : Prop :=
  ∀ i : Instr, i.WellFormed = true → decodeWord (encode i) = .ok i

/-- Each word has one meaning: a word that decodes is the word of its instruction, which is well-formed (R75). -/
def Obligations.EncodingUndoesDecoding : Prop :=
  ∀ (op : Word) (i : Instr), decodeWord op = .ok i → i.WellFormed = true ∧ encode i = op

/-- R75: no word matches two rows of the opcode map. -/
def Obligations.OpcodeMapRowsAreDisjoint : Prop :=
  opcodeTable.Pairwise (fun r q => ∀ op : Word, ¬ (op &&& r.mask = r.bits ∧ op &&& q.mask = q.bits))

/-- R76: the unrecognized words are exactly the six classes listed. -/
def Obligations.UnrecognizedWordsAreTheSixClasses : Prop :=
  ∀ op : Word, decodeWord op = .error (.unrecognized op) ↔
    (op.toNat / 4096 = 0 ∧ op.toNat ≠ 0x00E0 ∧ op.toNat ≠ 0x00EE) ∨
    (op.toNat / 4096 = 5 ∧ op.toNat % 16 ≠ 0) ∨
    (op.toNat / 4096 = 8 ∧ op.toNat % 16 ∈ [8, 9, 0xA, 0xB, 0xC, 0xD, 0xF]) ∨
    (op.toNat / 4096 = 9 ∧ op.toNat % 16 ≠ 0) ∨
    (op.toNat / 4096 = 0xE ∧ op.toNat % 256 ∉ [0x9E, 0xA1]) ∨
    (op.toNat / 4096 = 0xF ∧ op.toNat % 256 ∉ [0x07, 0x0A, 0x15, 0x18, 0x1E, 0x29, 0x33, 0x55, 0x65])

/-! ### The step -/

/-- R90, R93: a step whose word decodes to `i` is `exec i`, and after it, only if no fault was raised, both timers fall
by one down to 0 and the step's random byte is used up. -/
def Obligations.StepRunsTheDecodedInstruction : Prop :=
  ∀ (s : State) (i : Instr), Fetches s i →
    step s = match exec i s with
      | .next t => .next (match t.status with
        | .running => { t with
            DT := if t.DT = 0 then 0 else t.DT - 1, ST := if t.ST = 0 then 0 else t.ST - 1, draws := t.draws + 1 }
        | .faulted => t)
      | .fault r => .fault r
      | .refused r => .refused r

/-- R95: one decrement of each timer after the handler, floor at 0, on the value the handler left, and none in a step
that faulted. -/
def Obligations.TimersDecayOnceAfterEveryCommittedStep : Prop :=
  ∀ (s t : State) (i : Instr), Fetches s i → exec i s = .next t →
    (t.status = .running → ∃ u, step s = .next u ∧ u.DT.toNat = t.DT.toNat - 1 ∧ u.ST.toNat = t.ST.toNat - 1 ∧
      u = { t with DT := u.DT, ST := u.ST, draws := u.draws } ∧
      (∀ x, i = .ldDTV x → u.DT.toNat = (s.getV x).toNat - 1) ∧
      (∀ x, i = .ldSTV x → u.ST.toNat = (s.getV x).toNat - 1) ∧
      (∀ x, i = .ldVDT x → u.getV x = s.DT) ∧
      (∀ x, i = .ldVK x → u.DT.toNat = s.DT.toNat - 1 ∧ u.ST.toNat = s.ST.toNat - 1)) ∧
    (t.status = .faulted → step s = .next t)

/-- R91: a fetch above address 4094 takes `AddressOutOfRange`, code 3, with the first address out of the store. -/
def Obligations.FetchOutOfTheStoreFaults : Prop :=
  ∀ s : State, s.status = .running → 4094 < s.pc.toNat →
    ∃ t, step s = .next t ∧
      TakesFault 3 (some (BitVec.ofNat 17 (if 4095 < s.pc.toNat then s.pc.toNat else 4096))) s t

/-- R181: a word that is no instruction takes `UnrecognizedOpcode`, code 1, with the word and its address. -/
def Obligations.UnrecognizedWordFaults : Prop :=
  ∀ s : State, s.status = .running → s.pc.toNat ≤ 4094 →
    (∀ i, decodeWord (s.mem.read s.pc.toNat ++ s.mem.read (s.pc.toNat + 1)) ≠ .ok i) →
    ∃ t, step s = .next t ∧
      TakesFault 1 (some (BitVec.setWidth 17 (s.mem.read s.pc.toNat ++ s.mem.read (s.pc.toNat + 1)))) s t

/-- R188: a faulted core executes nothing, changes nothing and returns the latched error again. That the model's step has
no next state there is its choice, log entry 5. -/
def Obligations.FaultedCoreOnlyRepeatsItsError : Prop :=
  ∀ s : State, s.status = .faulted →
    step s = .fault (.latched s.faultCode s.faultInfo) ∧ hostStep s = (s, .err s.faultCode s.faultInfo)

/-- R96, R187: a step either commits, and the core is running, or takes one of the five faults and changes only the
fault record. -/
def Obligations.StepCommitsOrChangesOnlyTheFaultRecord : Prop :=
  ∀ s t : State, step s = .next t →
    t.status = .running ∨
    ∃ (code : BitVec 3) (value : Option (BitVec 17)), 1 ≤ code.toNat ∧ code.toNat ≤ 5 ∧ TakesFault code value s t

/-- R188: a run that ends with the core running had it running all along. -/
def Obligations.RunEndingRunningNeverFaulted : Prop :=
  ∀ (k : Nat) (s t : State), Sys2Proof.core.run k s = .next t → t.status = .running →
    ∀ j, j ≤ k → ∃ u : State, Sys2Proof.core.run j s = .next u ∧ u.status = .running

/-! ### Invariants and whole-machine rules -/

/-- The reset state meets the invariant. -/
def Obligations.ResetStateMeetsTheMachineBounds : Prop := State.Inv State.reset

/-- R25, R27, R50, R180, R187: the memory keeps its canonical form, `pc` never exceeds 4350, every return address is in
2..4096, the stack stays within STACK_DEPTH, and a faulted core keeps one of the five codes and its own address. -/
def Obligations.EveryStepKeepsTheMachineBounds : Prop :=
  ∀ s t : State, s.Inv → step s = .next t → t.Inv

/-- The host operations keep the invariant too (R38, R212). -/
def Obligations.HostOperationsKeepTheMachineBounds : Prop :=
  ∀ s : State, s.Inv →
    (∀ rom t, load rom s = .next t → t.Inv) ∧ (∀ k t, setKeyPressed k s = .next t → t.Inv) ∧
    (resetKeys s).Inv ∧ (resetCore s).Inv

/-- R28, R33: no step writes the keypad ("The core only reads it"), and none changes the parameters. -/
def Obligations.NoStepWritesKeypadOrParameters : Prop :=
  ∀ s t : State, step s = .next t → t.K = s.K ∧ t.cfg = s.cfg

/-- R23, R24, R27, R29, R51: `I`, the timers, the stack, the framebuffer and memory are written by the instructions the
spec names and by no other. -/
def Obligations.SpecialStateHasOnlyItsNamedWriters : Prop :=
  ∀ (i : Instr) (s t : State), exec i s = .next t →
    (t.I ≠ s.I → (∃ nnn, i = .ldI nnn) ∨ (∃ x, i = .ldF x) ∨ (∃ x, i = .addI x)) ∧
    (t.DT ≠ s.DT → ∃ x, i = .ldDTV x) ∧
    (t.ST ≠ s.ST → ∃ x, i = .ldSTV x) ∧
    (t.stack ≠ s.stack → (∃ nnn, i = .call nnn) ∨ i = .ret) ∧
    ((∃ c, t.FB.cell c ≠ s.FB.cell c) → i = .cls ∨ ∃ x y n, i = .drw x y n) ∧
    ((∃ a, t.mem.read a ≠ s.mem.read a) → (∃ x, i = .ldB x) ∨ ∃ count, i = .ldMV count)

/-- R22: VF changes only in the seven instructions that write it as a flag, or where it is the named destination. -/
def Obligations.FlagRegisterHasOnlyItsNamedWriters : Prop :=
  ∀ (i : Instr) (s t : State), i.WellFormed = true → exec i s = .next t → t.getV VF ≠ s.getV VF →
    (∃ x y, i = .addVV x y ∨ i = .sub x y ∨ i = .subn x y ∨ i = .shr x y ∨ i = .shl x y) ∨
    (∃ x, i = .addI x) ∨ (∃ x y n, i = .drw x y n) ∨
    (∃ y, i = .ldVV VF y ∨ i = .orVV VF y ∨ i = .andVV VF y ∨ i = .xorVV VF y) ∨
    (∃ kk, i = .ldVB VF kk ∨ i = .addVB VF kk ∨ i = .rnd VF kk) ∨ i = .ldVDT VF ∨ i = .ldVK VF

/-- No instruction is refused or stops: each answers a next state from every state, in which `status` is as before, or one
of the faults an instruction can raise, codes 2 to 5, is taken and nothing else changed (R186, R187, R189). Which effect it
has where it takes no fault is said by the statements of the single instructions. -/
def Obligations.EveryInstructionAnswersANextState : Prop :=
  ∀ (i : Instr) (s : State), ∃ t, exec i s = .next t ∧
    (t.status = s.status ∨
      ∃ (code : BitVec 3) (value : Option (BitVec 17)), 2 ≤ code.toNat ∧ code.toNat ≤ 5 ∧ TakesFault code value s t)

/-- R97: the random byte is read by RND and by no other instruction. -/
def Obligations.OnlyRndReadsTheDraw : Prop :=
  ∀ (i : Instr) (s t : State) (n : Nat), (∀ x kk, i ≠ .rnd x kk) → exec i s = .next t →
    exec i { s with draws := n } = .next { t with draws := n }

/-- R24: no instruction reads `ST`: two states that differ in it alone stay so. -/
def Obligations.SoundTimerInfluencesNothingElse : Prop :=
  ∀ (i : Instr) (s t : State) (b : Byte), exec i s = .next t →
    ∃ u, exec i { s with ST := b } = .next u ∧ u = { t with ST := u.ST }

/-! ### Control flow -/

/-- R102 to R105: the four register skips; nothing but `pc` changes. A low nibble other than 0 makes `5xyN` and `9xyN`
unrecognized. -/
def Obligations.RegisterSkipsAdvanceByFourOrTwo : Prop :=
  ∀ (x y : Reg) (kk : Byte) (s : State),
    (∀ f : BitVec 4, f ≠ 0 →
      decodeWord (wordXY 0x5 x y f) = .error (.unrecognized (wordXY 0x5 x y f)) ∧
      decodeWord (wordXY 0x9 x y f) = .error (.unrecognized (wordXY 0x9 x y f))) ∧
    (decodeWord (wordXK 0x3 x kk) = .ok (.seVB x kk) ∧ ∃ t, exec (.seVB x kk) s = .next t ∧ Frame {} s t ∧
      t.pc = if s.getV x = kk then s.pc + 4 else s.pc + 2) ∧
    (decodeWord (wordXK 0x4 x kk) = .ok (.sneVB x kk) ∧ ∃ t, exec (.sneVB x kk) s = .next t ∧ Frame {} s t ∧
      t.pc = if s.getV x ≠ kk then s.pc + 4 else s.pc + 2) ∧
    (decodeWord (wordXY 0x5 x y 0x0) = .ok (.seVV x y) ∧ ∃ t, exec (.seVV x y) s = .next t ∧ Frame {} s t ∧
      t.pc = if s.getV x = s.getV y then s.pc + 4 else s.pc + 2) ∧
    (decodeWord (wordXY 0x9 x y 0x0) = .ok (.sneVV x y) ∧ ∃ t, exec (.sneVV x y) s = .next t ∧ Frame {} s t ∧
      t.pc = if s.getV x ≠ s.getV y then s.pc + 4 else s.pc + 2)

/-- R106, R107, R185: the key skips test key `V[x]`; above 15 they take `KeyIndexOutOfRange`, code 5. -/
def Obligations.KeySkipsTestTheKeyOrFault : Prop :=
  ∀ (x : Reg) (s : State),
    (∀ k : Fin 16, (s.getV x).toNat = k.val →
      (∃ t, exec (.skp x) s = .next t ∧ Frame {} s t ∧ t.pc = if s.K[k] = true then s.pc + 4 else s.pc + 2) ∧
      (∃ t, exec (.sknp x) s = .next t ∧ Frame {} s t ∧ t.pc = if s.K[k] = false then s.pc + 4 else s.pc + 2)) ∧
    (15 < (s.getV x).toNat →
      (∃ t, exec (.skp x) s = .next t ∧ TakesFault 5 (some (BitVec.setWidth 17 (s.getV x))) s t) ∧
      (∃ t, exec (.sknp x) s = .next t ∧ TakesFault 5 (some (BitVec.setWidth 17 (s.getV x))) s t))

/-- R108, R109: the jumps; JMP_VA adds `V[0]` without masking. -/
def Obligations.JumpsSetTheProgramCounter : Prop :=
  ∀ (nnn : Addr12) (s : State),
    (decodeWord (wordA 0x1 nnn) = .ok (.jmp nnn) ∧ ∃ t, exec (.jmp nnn) s = .next t ∧ Frame {} s t ∧
      t.pc = nnn.setWidth 16) ∧
    (decodeWord (wordA 0xB nnn) = .ok (.jmpVA nnn) ∧ ∃ t, exec (.jmpVA nnn) s = .next t ∧ Frame {} s t ∧
      t.pc.toNat = nnn.toNat + (s.getV 0).toNat)

/-- R108, R214: a jump to itself changes nothing but the timers (and the model's count of draws). -/
def Obligations.SelfJumpChangesOnlyTheTimers : Prop :=
  ∀ (nnn : Addr12) (s : State), Fetches s (.jmp nnn) → nnn.setWidth 16 = s.pc →
    ∃ t, step s = .next t ∧ t = { s with DT := t.DT, ST := t.ST, draws := t.draws }

/-- R110, R184: CALL pushes `pc0 + 2` and jumps; with STACK_DEPTH entries on the stack it takes `StackOverflow`, code 4;
with STACK_DEPTH unbounded it never does. -/
def Obligations.CallPushesTheReturnAddressOrFaults : Prop :=
  ∀ (nnn : Addr12) (s : State),
    ((∀ d, s.cfg.stackDepth = some d → s.stack.length < d) →
      ∃ t, exec (.call nnn) s = .next t ∧ Frame { stack := true } s t ∧
        t.stack = (s.pc + 2) :: s.stack ∧ t.pc = nnn.setWidth 16) ∧
    (∀ d, s.cfg.stackDepth = some d → s.stack.length = d →
      ∃ t, exec (.call nnn) s = .next t ∧ TakesFault 4 none s t)

/-- R111, R183: RET pops the top into `pc`, and adds nothing; on an empty stack it takes `StackUnderflow`, code 2. -/
def Obligations.ReturnPopsTheTopOrFaults : Prop :=
  decodeWord 0x00EE = .ok .ret ∧
  ∀ s : State,
    (∀ top rest, s.stack = top :: rest →
      ∃ t, exec .ret s = .next t ∧ Frame { stack := true } s t ∧ t.stack = rest ∧ t.pc = top) ∧
    (s.stack = [] → ∃ t, exec .ret s = .next t ∧ TakesFault 2 none s t)

/-! ### ALU -/

/-- R121 to R123: the bitwise instructions write `V[x]` and no flag. -/
def Obligations.LogicalInstructionsCombineRegisters : Prop :=
  ∀ (x y : Reg) (s : State),
    (decodeWord (wordXY 0x8 x y 0x1) = .ok (.orVV x y) ∧ ∃ t, exec (.orVV x y) s = .next t ∧
      Frame { regs := [x] } s t ∧ t.getV x = s.getV x ||| s.getV y ∧ t.pc = s.pc + 2) ∧
    (decodeWord (wordXY 0x8 x y 0x2) = .ok (.andVV x y) ∧ ∃ t, exec (.andVV x y) s = .next t ∧
      Frame { regs := [x] } s t ∧ t.getV x = s.getV x &&& s.getV y ∧ t.pc = s.pc + 2) ∧
    (decodeWord (wordXY 0x8 x y 0x3) = .ok (.xorVV x y) ∧ ∃ t, exec (.xorVV x y) s = .next t ∧
      Frame { regs := [x] } s t ∧ t.getV x = s.getV x ^^^ s.getV y ∧ t.pc = s.pc + 2)

/-- R124: ADD_VB wraps modulo 256 and writes no flag. -/
def Obligations.AddImmediateWrapsWithoutFlag : Prop :=
  ∀ (x : Reg) (kk : Byte) (s : State),
    decodeWord (wordXK 0x7 x kk) = .ok (.addVB x kk) ∧ ∃ t, exec (.addVB x kk) s = .next t ∧
      Frame { regs := [x] } s t ∧ (t.getV x).toNat = ((s.getV x).toNat + kk.toNat) % 256 ∧ t.pc = s.pc + 2

/-- R125: ADD_VV; where `x` is VF the sum is written last and the flag is lost (write order: D10, log entry 8). -/
def Obligations.AddRegistersSetsCarry : Prop :=
  ∀ (x y : Reg) (s : State),
    decodeWord (wordXY 0x8 x y 0x4) = .ok (.addVV x y) ∧ ∃ t, exec (.addVV x y) s = .next t ∧
      Frame { regs := [x, VF] } s t ∧ (t.getV x).toNat = ((s.getV x).toNat + (s.getV y).toNat) % 256 ∧
      (x ≠ VF → t.getV VF = if 255 < (s.getV x).toNat + (s.getV y).toNat then 1 else 0) ∧ t.pc = s.pc + 2

/-- R126: ADD_I; the flag is of the unwrapped sum at the 255 boundary, and `V[x]` is read again after it. -/
def Obligations.AddToIndexFlagsAboveTwoFiftyFive : Prop :=
  ∀ (x : Reg) (s : State), ∃ t f, exec (.addI x) s = .next t ∧ Frame { regs := [VF], index := true } s t ∧
    f = (if 255 < s.I.toNat + (s.getV x).toNat then 1 else 0) ∧ (t.getV VF).toNat = f ∧
    t.I.toNat = (s.I.toNat + if x = VF then f else (s.getV x).toNat) % 65536 ∧ t.pc = s.pc + 2

/-- R127, R128: the two subtractions; the flag is strict, is written first, and the operands are read after it (write
order: D10, log entry 8). -/
def Obligations.SubtractionsSetStrictGreaterFlag : Prop :=
  ∀ (x y : Reg) (s : State),
    (decodeWord (wordXY 0x8 x y 0x5) = .ok (.sub x y) ∧ ∃ t f, exec (.sub x y) s = .next t ∧
      Frame { regs := [x, VF] } s t ∧ f = (if (s.getV y).toNat < (s.getV x).toNat then 1 else 0) ∧
      (t.getV x).toNat = (256 + (if x = VF then f else (s.getV x).toNat) - (if y = VF then f else (s.getV y).toNat)) % 256 ∧
      (x ≠ VF → (t.getV VF).toNat = f) ∧ t.pc = s.pc + 2) ∧
    (decodeWord (wordXY 0x8 x y 0x7) = .ok (.subn x y) ∧ ∃ t f, exec (.subn x y) s = .next t ∧
      Frame { regs := [x, VF] } s t ∧ f = (if (s.getV x).toNat < (s.getV y).toNat then 1 else 0) ∧
      (t.getV x).toNat = (256 + (if y = VF then f else (s.getV y).toNat) - (if x = VF then f else (s.getV x).toNat)) % 256 ∧
      (x ≠ VF → (t.getV VF).toNat = f) ∧ t.pc = s.pc + 2)

/-- R129, R130: the shifts by one; the flag is the bit shifted out, is written first, and `V[x]` is read after it; `V[y]`
is neither read nor written (write order: D10, log entry 8). -/
def Obligations.ShiftsByOneFlagTheBitShiftedOut : Prop :=
  ∀ (x y : Reg) (s : State),
    (decodeWord (wordXY 0x8 x y 0x6) = .ok (.shr x y) ∧ ∃ t f, exec (.shr x y) s = .next t ∧
      Frame { regs := [x, VF] } s t ∧ f = (s.getV x).toNat % 2 ∧
      (t.getV x).toNat = (if x = VF then f else (s.getV x).toNat) / 2 ∧
      (x ≠ VF → (t.getV VF).toNat = f) ∧ t.pc = s.pc + 2) ∧
    (decodeWord (wordXY 0x8 x y 0xE) = .ok (.shl x y) ∧ ∃ t f, exec (.shl x y) s = .next t ∧
      Frame { regs := [x, VF] } s t ∧ f = (if (s.getV x &&& 0xF0) >>> 7 = 1 then 1 else 0) ∧
      f = (s.getV x).toNat / 128 ∧
      (t.getV x).toNat = ((if x = VF then f else (s.getV x).toNat) * 2) % 256 ∧
      (x ≠ VF → (t.getV VF).toNat = f) ∧ t.pc = s.pc + 2)

/-- R131: the table of outcomes when a flag-writing instruction names VF, with `F`, `a`, `b` the old VF, `V[x]`, `V[y]`. -/
def Obligations.FlagRegisterAsOperandFollowsTheTable : Prop :=
  ∀ (x y : Reg) (s : State) (F a b : Nat), x ≠ VF → y ≠ VF →
    (s.getV VF).toNat = F → (s.getV x).toNat = a → (s.getV y).toNat = b →
    (∃ t, exec (.addVV VF y) s = .next t ∧ (t.getV VF).toNat = (F + b) % 256) ∧
    (∃ t, exec (.addVV x VF) s = .next t ∧ (t.getV x).toNat = (a + F) % 256 ∧
      (t.getV VF).toNat = if 255 < a + F then 1 else 0) ∧
    (∃ t, exec (.addVV VF VF) s = .next t ∧ (t.getV VF).toNat = (2 * F) % 256) ∧
    (∃ t, exec (.sub VF y) s = .next t ∧ (t.getV VF).toNat = (256 + (if b < F then 1 else 0) - b) % 256) ∧
    (∃ t, exec (.sub x VF) s = .next t ∧ (t.getV x).toNat = (256 + a - if F < a then 1 else 0) % 256 ∧
      (t.getV VF).toNat = if F < a then 1 else 0) ∧
    (∃ t, exec (.sub VF VF) s = .next t ∧ (t.getV VF).toNat = 0) ∧
    (∃ t, exec (.subn VF y) s = .next t ∧ (t.getV VF).toNat = (256 + b - if F < b then 1 else 0) % 256) ∧
    (∃ t, exec (.subn x VF) s = .next t ∧ (t.getV x).toNat = (256 + (if a < F then 1 else 0) - a) % 256 ∧
      (t.getV VF).toNat = if a < F then 1 else 0) ∧
    (∃ t, exec (.subn VF VF) s = .next t ∧ (t.getV VF).toNat = 0) ∧
    (∃ t, exec (.shr VF y) s = .next t ∧ (t.getV VF).toNat = 0) ∧
    (∃ t, exec (.shr VF VF) s = .next t ∧ (t.getV VF).toNat = 0) ∧
    (∃ t, exec (.shl VF y) s = .next t ∧ (t.getV VF).toNat = 2 * (F / 128)) ∧
    (∃ t, exec (.shl VF VF) s = .next t ∧ (t.getV VF).toNat = 2 * (F / 128)) ∧
    (∃ t, exec (.addI VF) s = .next t ∧ (t.getV VF).toNat = (if 255 < s.I.toNat + F then 1 else 0) ∧
      t.I.toNat = (s.I.toNat + if 255 < s.I.toNat + F then 1 else 0) % 65536)

/-! ### Loads and stores -/

/-- R141 to R143: the register and index loads. -/
def Obligations.LoadsAssignRegisterOrIndex : Prop :=
  ∀ (x y : Reg) (kk : Byte) (nnn : Addr12) (s : State),
    (decodeWord (wordXK 0x6 x kk) = .ok (.ldVB x kk) ∧ ∃ t, exec (.ldVB x kk) s = .next t ∧
      Frame { regs := [x] } s t ∧ t.getV x = kk ∧ t.pc = s.pc + 2) ∧
    (decodeWord (wordXY 0x8 x y 0x0) = .ok (.ldVV x y) ∧ ∃ t, exec (.ldVV x y) s = .next t ∧
      Frame { regs := [x] } s t ∧ t.getV x = s.getV y ∧ t.pc = s.pc + 2) ∧
    (decodeWord (wordA 0xA nnn) = .ok (.ldI nnn) ∧ ∃ t, exec (.ldI nnn) s = .next t ∧
      Frame { index := true } s t ∧ t.I = nnn.setWidth 16 ∧ t.pc = s.pc + 2)

/-- R147: LD_F multiplies all of `V[x]` by 5, without a mask and without wrap. -/
def Obligations.FontAddressIsFiveTimesTheRegister : Prop :=
  ∀ (x : Reg) (s : State), ∃ t, exec (.ldF x) s = .next t ∧ Frame { index := true } s t ∧
    t.I.toNat = (s.getV x).toNat * 5 ∧ t.pc = s.pc + 2

/-- R144: LD_B stores the three digits of the document's formula, or stores nothing and faults. -/
def Obligations.BcdStoresHundredsTwiceThenUnits : Prop :=
  ∀ (x : Reg) (s : State), decodeWord (wordX 0xF (regBits x) 0x33) = .ok (.ldB x) ∧
    (s.I.toNat + 2 ≤ 4095 →
      ∃ t, exec (.ldB x) s = .next t ∧
        Frame { stores := [effAddr s 0, effAddr s 1, effAddr s 2] } s t ∧
        (t.mem.read (effAddr s 0)).toNat = (s.getV x).toNat / 100 ∧
        (t.mem.read (effAddr s 1)).toNat = (s.getV x).toNat / 100 % 10 ∧
        (t.mem.read (effAddr s 2)).toNat = (s.getV x).toNat % 100 % 10 ∧ t.pc = s.pc + 2) ∧
    (4095 < s.I.toNat + 2 →
      ∃ t, exec (.ldB x) s = .next t ∧ TakesFault 3 (some (BitVec.ofNat 17 (lowestOffending s))) s t)

/-- R145: LD_MV stores exactly `V[0]` to `V[x-1]`, or stores nothing and faults. -/
def Obligations.BlockStoreMovesCountRegisters : Prop :=
  ∀ (count : Nat) (s : State), count ≤ 15 →
    decodeWord (wordX 0xF (countBits count) 0x55) = .ok (.ldMV count) ∧
    ((count = 0 ∨ s.I.toNat + count - 1 ≤ 4095) →
      ∃ t, exec (.ldMV count) s = .next t ∧
        Frame { stores := (List.range count).map (effAddr s) } s t ∧
        (∀ r : Reg, r.val < count → t.mem.read (effAddr s r.val) = s.getV r) ∧ t.pc = s.pc + 2) ∧
    (1 ≤ count → 4095 < s.I.toNat + count - 1 →
      ∃ t, exec (.ldMV count) s = .next t ∧ TakesFault 3 (some (BitVec.ofNat 17 (lowestOffending s))) s t)

/-- R146: LD_VM loads exactly `V[0]` to `V[x-1]`, or loads nothing and faults. -/
def Obligations.BlockLoadMovesCountRegisters : Prop :=
  ∀ (count : Nat) (s : State), count ≤ 15 →
    decodeWord (wordX 0xF (countBits count) 0x65) = .ok (.ldVM count) ∧
    ((count = 0 ∨ s.I.toNat + count - 1 ≤ 4095) →
      ∃ t, exec (.ldVM count) s = .next t ∧
        Frame { regs := (List.finRange 16).filter (fun r => r.val < count) } s t ∧
        (∀ r : Reg, r.val < count → t.getV r = s.mem.read (effAddr s r.val)) ∧ t.pc = s.pc + 2) ∧
    (1 ≤ count → 4095 < s.I.toNat + count - 1 →
      ∃ t, exec (.ldVM count) s = .next t ∧ TakesFault 3 (some (BitVec.ofNat 17 (lowestOffending s))) s t)

/-! ### Keypad, timers, random -/

/-- R161: LD_VK takes the highest pressed key, and with none pressed stays where it is; the timers decay either way. -/
def Obligations.KeyWaitTakesTheHighestPressedKey : Prop :=
  ∀ (x : Reg) (s : State), decodeWord (wordX 0xF (regBits x) 0x0A) = .ok (.ldVK x) ∧
    (Fetches s (.ldVK x) → ∃ u, step s = .next u ∧ u.DT.toNat = s.DT.toNat - 1 ∧ u.ST.toNat = s.ST.toNat - 1) ∧
    ((∀ k : Fin 16, s.K[k] = false) → ∃ t, exec (.ldVK x) s = .next t ∧ Frame {} s t ∧ t.pc = s.pc) ∧
    (∀ k : Fin 16, s.K[k] = true → (∀ j : Fin 16, k < j → s.K[j] = false) →
      ∃ t, exec (.ldVK x) s = .next t ∧ Frame { regs := [x] } s t ∧ (t.getV x).toNat = k.val ∧ t.pc = s.pc + 2)

/-- R162 to R164: the timer transfers; a timer written ends its step one lower, and LD_VDT reads before the decay. -/
def Obligations.TimerTransfersMoveThenDecay : Prop :=
  ∀ (x : Reg) (s : State),
    (decodeWord (wordX 0xF (regBits x) 0x07) = .ok (.ldVDT x) ∧
      (∃ t, exec (.ldVDT x) s = .next t ∧ Frame { regs := [x] } s t ∧ t.getV x = s.DT ∧ t.pc = s.pc + 2) ∧
      (Fetches s (.ldVDT x) → ∃ u, step s = .next u ∧ u.getV x = s.DT ∧ u.DT.toNat = s.DT.toNat - 1)) ∧
    (decodeWord (wordX 0xF (regBits x) 0x15) = .ok (.ldDTV x) ∧
      (∃ t, exec (.ldDTV x) s = .next t ∧ Frame { delay := true } s t ∧ t.DT = s.getV x ∧ t.pc = s.pc + 2) ∧
      (Fetches s (.ldDTV x) → ∃ u, step s = .next u ∧ u.DT.toNat = (s.getV x).toNat - 1)) ∧
    (decodeWord (wordX 0xF (regBits x) 0x18) = .ok (.ldSTV x) ∧
      (∃ t, exec (.ldSTV x) s = .next t ∧ Frame { sound := true } s t ∧ t.ST = s.getV x ∧ t.pc = s.pc + 2) ∧
      (Fetches s (.ldSTV x) → ∃ u, step s = .next u ∧ u.ST.toNat = (s.getV x).toNat - 1))

/-- R165: RND masks the step's draw, whatever it is; a bit of `V[x]` where `kk` has a 0 is 0. The form of the draw, a byte
of an unconstrained sequence at a counter, is the model's, log entry 3. -/
def Obligations.RandomIsTheDrawMasked : Prop :=
  ∀ (x : Reg) (kk : Byte) (s : State), ∃ t, exec (.rnd x kk) s = .next t ∧ Frame { regs := [x] } s t ∧
    t.getV x = Config.freeRnd s.draws &&& kk ∧ (∀ j, kk.getLsbD j = false → (t.getV x).getLsbD j = false) ∧
    t.pc = s.pc + 2

/-! ### Framebuffer -/

/-- R171: CLS clears every cell and writes nothing else, not VF. -/
def Obligations.ClearScreenZeroesEveryCell : Prop :=
  decodeWord 0x00E0 = .ok .cls ∧
  ∀ s : State, ∃ t, exec .cls s = .next t ∧ Frame { screen := true } s t ∧
    (∀ c, c ≤ 2047 → t.FB.cell c = false) ∧ t.pc = s.pc + 2

/-- R172, R173: the loop of DRW is its closed form: every cell is flipped once for each set sprite bit that lands on it,
VF tells whether one landed on a 1 or two landed on one cell, and nothing else changes; or the sprite leaves the store,
nothing is drawn, and the fault is taken. -/
def Obligations.DrawMatchesItsClosedForm : Prop :=
  ∀ (x y : Reg) (n : Nat) (s : State), n ≤ 15 →
    (SpriteInStore s n →
      ∃ t, exec (.drw x y n) s = .next t ∧ Frame { regs := [VF], screen := true } s t ∧
        (∀ c, c ≤ 2047 → t.FB.cell c = (s.FB.cell c ^^ (drawHitCount s x y n c % 2 == 1))) ∧
        (t.getV VF = 0 ∨ t.getV VF = 1) ∧
        (t.getV VF = 1 ↔ ∃ c, c ≤ 2047 ∧
          ((1 ≤ drawHitCount s x y n c ∧ s.FB.cell c = true) ∨ 2 ≤ drawHitCount s x y n c)) ∧
        t.pc = s.pc + 2) ∧
    (1 ≤ n → 4095 < s.I.toNat + n - 1 →
      ∃ t, exec (.drw x y n) s = .next t ∧ TakesFault 3 (some (BitVec.ofNat 17 (lowestOffending s))) s t)

/-- R175: the same sprite drawn twice at the same coordinates restores every cell; the second draw collides if the sprite
has a set bit and met no 1 the first time; a sprite with no set bit never collides. -/
def Obligations.DrawingTwiceRestoresTheScreen : Prop :=
  ∀ (x y : Reg) (n : Nat) (s : State), x ≠ VF → y ≠ VF → n ≤ 15 → SpriteInStore s n →
    ∃ t u, exec (.drw x y n) s = .next t ∧ exec (.drw x y n) t = .next u ∧
      (∀ c, c ≤ 2047 → u.FB.cell c = s.FB.cell c) ∧
      ((∃ c, 1 ≤ drawHitCount s x y n c) →
        (∀ c, 1 ≤ drawHitCount s x y n c → s.FB.cell c = false) → u.getV VF = 1) ∧
      ((∀ c, drawHitCount s x y n c = 0) → t.getV VF = 0 ∧ u.getV VF = 0)
end

