-- ==== Sys2Proof/Laws/Encoding.lean ====
section
/-! SUPPORT. The four word formats (spec/30_encoding.md R72): what a row's mask leaves of a word, and what each field
of a word is. -/

namespace Sys2Proof

theorem and_ones4 (v : BitVec 4) : v &&& 0xF#4 = v := by revert v; decide
theorem and_ones8 (v : BitVec 8) : v &&& 0xFF#8 = v := by
  simpa using BitVec.and_allOnes (x := v)

/-! ### Masks -/

/-- Format A keeps its major opcode under the mask 0xF000. -/
theorem wordA_mask (t : BitVec 4) (nnn : Addr12) : wordA t nnn &&& 0xF000 = t ++ 0#12 := by
  rw [wordA, show (0xF000 : Word) = 0xF#4 ++ 0#12 by decide, BitVec.and_append, and_ones4, BitVec.and_zero]

/-- Format XK keeps its major opcode under the mask 0xF000. -/
theorem wordXK_mask (t : BitVec 4) (x : Reg) (kk : Byte) : wordXK t x kk &&& 0xF000 = t ++ 0#4 ++ 0#8 := by
  rw [wordXK, show (0xF000 : Word) = 0xF#4 ++ 0#4 ++ 0#8 by decide, BitVec.and_append, BitVec.and_append, and_ones4,
    BitVec.and_zero, BitVec.and_zero]

/-- Format XY keeps its major opcode and function nibble under the mask 0xF00F. -/
theorem wordXY_mask (t : BitVec 4) (x y : Reg) (f : BitVec 4) :
    wordXY t x y f &&& 0xF00F = t ++ 0#4 ++ 0#4 ++ f := by
  rw [wordXY, show (0xF00F : Word) = 0xF#4 ++ 0#4 ++ 0#4 ++ 0xF#4 by decide, BitVec.and_append, BitVec.and_append,
    BitVec.and_append, and_ones4, and_ones4, BitVec.and_zero, BitVec.and_zero]

/-- Format XYN keeps its major opcode under the mask 0xF000. -/
theorem wordXYN_mask (t : BitVec 4) (x y : Reg) (f : BitVec 4) :
    wordXY t x y f &&& 0xF000 = t ++ 0#4 ++ 0#4 ++ 0#4 := by
  rw [wordXY, show (0xF000 : Word) = 0xF#4 ++ 0#4 ++ 0#4 ++ 0#4 by decide, BitVec.and_append, BitVec.and_append,
    BitVec.and_append, and_ones4, BitVec.and_zero, BitVec.and_zero, BitVec.and_zero]

/-- Format X keeps its major opcode and function byte under the mask 0xF0FF. -/
theorem wordX_mask (t x : BitVec 4) (f : Byte) : wordX t x f &&& 0xF0FF = t ++ 0#4 ++ f := by
  rw [wordX, show (0xF0FF : Word) = 0xF#4 ++ 0#4 ++ 0xFF#8 by decide, BitVec.and_append, BitVec.and_append, and_ones4,
    BitVec.and_zero, and_ones8]

/-! ### Fields -/

@[simp] theorem regBits_toFin (x : Reg) : (regBits x).toFin = x := rfl

@[simp] theorem countBits_toNat (n : Nat) (h : n ≤ 15) : (countBits n).toNat = n := by
  simp only [countBits, BitVec.toNat_ofNat]
  omega

theorem fieldNNN_wordA (t : BitVec 4) (nnn : Addr12) : fieldNNN (wordA t nnn) = nnn := by
  rw [fieldNNN, wordA, BitVec.extractLsb'_append_eq_of_add_le (by decide), BitVec.extractLsb'_eq_self]

theorem fieldX_wordXK (t : BitVec 4) (x : Reg) (kk : Byte) : fieldX (wordXK t x kk) = x := by
  rw [fieldX, wordXK, BitVec.extractLsb'_append_eq_of_le (by decide), BitVec.extractLsb'_append_eq_of_add_le (by decide),
    BitVec.extractLsb'_eq_self, regBits_toFin]

theorem fieldKK_wordXK (t : BitVec 4) (x : Reg) (kk : Byte) : fieldKK (wordXK t x kk) = kk := by
  rw [fieldKK, wordXK, BitVec.extractLsb'_append_eq_of_add_le (by decide), BitVec.extractLsb'_eq_self]

theorem fieldX_wordXY (t : BitVec 4) (x y : Reg) (f : BitVec 4) : fieldX (wordXY t x y f) = x := by
  rw [fieldX, wordXY, BitVec.extractLsb'_append_eq_of_le (by decide), BitVec.extractLsb'_append_eq_of_le (by decide),
    BitVec.extractLsb'_append_eq_of_add_le (by decide), BitVec.extractLsb'_eq_self, regBits_toFin]

theorem fieldY_wordXY (t : BitVec 4) (x y : Reg) (f : BitVec 4) : fieldY (wordXY t x y f) = y := by
  rw [fieldY, wordXY, BitVec.extractLsb'_append_eq_of_le (by decide),
    BitVec.extractLsb'_append_eq_of_add_le (by decide), BitVec.extractLsb'_eq_self, regBits_toFin]

theorem fieldN_wordXY (t : BitVec 4) (x y : Reg) (f : BitVec 4) : fieldN (wordXY t x y f) = f.toNat := by
  rw [fieldN, wordXY, BitVec.extractLsb'_append_eq_of_add_le (by decide), BitVec.extractLsb'_eq_self]

theorem fieldX_wordX (t x : BitVec 4) (f : Byte) : fieldX (wordX t x f) = x.toFin := by
  rw [fieldX, wordX, BitVec.extractLsb'_append_eq_of_le (by decide), BitVec.extractLsb'_append_eq_of_add_le (by decide),
    BitVec.extractLsb'_eq_self]

theorem fieldXCount_wordX (t x : BitVec 4) (f : Byte) : fieldXCount (wordX t x f) = x.toNat := by
  rw [fieldXCount, wordX, BitVec.extractLsb'_append_eq_of_le (by decide),
    BitVec.extractLsb'_append_eq_of_add_le (by decide), BitVec.extractLsb'_eq_self]

end Sys2Proof
end

