-- ==== Sys2Proof/Laws/Memory.lean ====
section
/-! SUPPORT. What the memory operations do, said once: every read after a write, and the canonical form kept. -/

namespace Sys2Proof.Machine

theorem Memory.read_nil (a : Nat) : Memory.read [] a = 0 := rfl

/-- Reading a memory that starts with a cell. -/
theorem Memory.read_cons (c : Host.Cell) (m : Memory) (a : Nat) :
    Memory.read (c :: m) a = if c.1 = a then c.2 else Memory.read m a := by
  by_cases h : c.1 = a <;> simp [Memory.read, h]

/-- Removing the cells of one address makes it read 0 and changes no other. -/
theorem Memory.read_filter (m : Memory) (a b : Nat) :
    Memory.read (m.filter (fun c => c.1 != a)) b = if b = a then 0 else Memory.read m b := by
  induction m with
  | nil => simp [Memory.read_nil]
  | cons c m ih =>
    by_cases h : c.1 = a
    · simp only [h, bne_self_eq_false, Bool.false_eq_true, not_false_eq_true, List.filter_cons_of_neg, ih,
        Memory.read_cons]
      split
      · rfl
      · next hb => rw [if_neg (fun hc => hb hc.symm)]
    · simp only [List.filter_cons, bne_iff_ne, ne_eq, h, not_false_eq_true, if_true, Memory.read_cons, ih]
      split
      · next hc => subst hc; simp [h]
      · rfl

/-- Placing a cell where its address is not listed makes that address read its byte and changes no other. -/
theorem Memory.read_place (cell : Host.Cell) (m : Memory) (b : Nat) (hm : ∀ c ∈ m, c.1 ≠ cell.1) :
    Memory.read (Memory.place cell m) b = if b = cell.1 then cell.2 else Memory.read m b := by
  induction m with
  | nil => simp [Memory.place, Memory.read_cons, Memory.read_nil, eq_comm]
  | cons c m ih =>
    have hc : c.1 ≠ cell.1 := hm c (by simp)
    have ih := ih (fun d hd => hm d (by simp [hd]))
    simp only [Memory.place]
    split
    · simp [Memory.read_cons, eq_comm]
    · rw [Memory.read_cons, ih, Memory.read_cons]
      by_cases hb : b = cell.1
      · subst hb; simp [hc]
      · simp [hb]

/-- Every read returns the byte of the most recent write there, and a write leaves every other address alone (R52, R59). -/
@[simp] theorem Memory.read_write (m : Memory) (a : Nat) (v : Byte) (b : Nat) :
    (m.write a v).read b = if b = a then v else m.read b := by
  unfold Memory.write
  split
  · next h => rw [Memory.read_filter, h]
  · rw [Memory.read_place _ _ _ (by simp), Memory.read_filter]
    by_cases hb : b = a <;> simp [hb]

/-- A placed cell is one of the cells. -/
theorem Memory.mem_place (cell c : Host.Cell) (m : Memory) : c ∈ Memory.place cell m ↔ c = cell ∨ c ∈ m := by
  induction m with
  | nil => simp [Memory.place]
  | cons d m ih =>
    simp only [Memory.place]
    split
    · simp
    · simp only [List.mem_cons, ih]
      tauto

theorem Memory.pairwise_place (cell : Host.Cell) (m : Memory) (h : m.Pairwise (fun c d => c.1 < d.1))
    (hm : ∀ c ∈ m, c.1 ≠ cell.1) : (Memory.place cell m).Pairwise (fun c d => c.1 < d.1) := by
  induction m with
  | nil => simp [Memory.place]
  | cons d m ih =>
    have hd := List.pairwise_cons.mp h
    simp only [Memory.place]
    split
    · next hlt =>
      refine List.pairwise_cons.mpr ⟨fun c hc => ?_, h⟩
      rcases List.mem_cons.mp hc with rfl | hc
      · exact hlt
      · exact lt_trans hlt (hd.1 c hc)
    · next hge =>
      refine List.pairwise_cons.mpr ⟨fun c hc => ?_, ih hd.2 (fun c hc => hm c (by simp [hc]))⟩
      rcases (Memory.mem_place _ _ _).mp hc with rfl | hc
      · have := hm d (by simp); omega
      · exact hd.1 c hc

theorem Memory.wf_nil : Memory.wf [] := ⟨List.Pairwise.nil, fun _ hc => absurd hc List.not_mem_nil⟩

/-- A write inside the store keeps the canonical form. -/
theorem Memory.wf_write (m : Memory) (a : Nat) (v : Byte) (h : m.wf) (ha : a ≤ 4095) : (m.write a v).wf := by
  have hp : (m.filter (fun c => c.1 != a)).Pairwise (fun c d => c.1 < d.1) := h.1.sublist List.filter_sublist
  unfold Memory.write
  split
  · exact ⟨hp, fun c hc => h.2 c (List.mem_filter.mp hc).1⟩
  · next hv =>
    refine ⟨Memory.pairwise_place _ _ hp (by simp), fun c hc => ?_⟩
    rcases (Memory.mem_place _ _ _).mp hc with rfl | hc
    · exact ⟨ha, hv⟩
    · exact h.2 c (List.mem_filter.mp hc).1

/-- Writing bytes inside the store keeps the canonical form. -/
theorem Memory.wf_writeBytes (bs : List Byte) (m : Memory) (a : Nat) (h : m.wf) (ha : a + bs.length ≤ 4096) :
    (m.writeBytes a bs).wf := by
  induction bs generalizing m a with
  | nil => exact h
  | cons b bs ih =>
    simp only [List.length_cons] at ha
    exact ih _ _ (Memory.wf_write _ _ _ h (by omega)) (by omega)

/-- What an address reads after bytes have been written from `a` on. -/
theorem Memory.read_writeBytes (bs : List Byte) (m : Memory) (a b : Nat) :
    (m.writeBytes a bs).read b = if a ≤ b ∧ b < a + bs.length then bs[b - a]?.getD 0 else m.read b := by
  induction bs generalizing m a with
  | nil => simp [Memory.writeBytes]
  | cons v bs ih =>
    simp only [Memory.writeBytes, ih, Memory.read_write, List.length_cons]
    rcases lt_trichotomy b a with h | rfl | h
    · rw [if_neg (by omega), if_neg (by omega), if_neg (by omega)]
    · rw [if_neg (by omega), if_pos rfl, if_pos (by omega)]; simp
    · obtain ⟨k, rfl⟩ : ∃ k, b = a + 1 + k := ⟨b - (a + 1), by omega⟩
      by_cases hk : k < bs.length
      · rw [if_pos (by omega), if_pos (by omega), show a + 1 + k - a = k + 1 by omega,
          show a + 1 + k - (a + 1) = k by omega]
        simp
      · rw [if_neg (by omega), if_neg (by omega), if_neg (by omega)]

end Sys2Proof.Machine
end

