-- ==== Sys2Proof/Laws/Screen.lean ====
section
/-! SUPPORT. What the framebuffer operations do to a cell, said once: clear, flip, and a whole blit. -/

namespace Sys2Proof.Machine

/-- Every cell of the cleared grid is 0 (R171). -/
@[simp] theorem Screen.cell_clear (c : Nat) : Screen.clear.cell c = false := by
  simp only [Screen.cell, Screen.clear, Vector.getElem?_replicate]
  split <;> simp

/-- Flipping cell `c` flips that cell and no other cell of the grid (R172). -/
theorem Screen.cell_flipCell (fb : Screen) (c d : Nat) (hc : c ≤ lastCell) :
    (fb.flipCell c).cell d = if d = c then !fb.cell c else fb.cell d := by
  have hr : c / 64 < 32 := by simp only [lastCell] at hc; omega
  simp only [Screen.cell, Screen.flipCell, Vector.getElem?_setIfInBounds]
  by_cases hrow : c / 64 = d / 64
  · have hbit : d % 64 < 64 := Nat.mod_lt _ (by decide)
    have hsame : (c % 64 = d % 64) ↔ d = c := by omega
    by_cases hdc : d = c
    · subst hdc; simp [hr, hbit]
    · have hne : ¬ (c % 64 = d % 64) := fun h => hdc (hsame.mp h)
      have hbits : (BitVec.twoPow 64 (c % 64)).getLsbD (d % 64) = false := by
        simp only [BitVec.getLsbD_twoPow, decide_eq_false hne, Bool.and_false]
      rw [if_pos hrow, if_pos hr, if_neg hdc, Option.getD_some, BitVec.getLsbD_xor, hbits, Bool.xor_false, hrow]
  · have hdc : d ≠ c := fun h => hrow (by rw [h])
    simp [hrow, hdc]

/-- Every clamped index is a cell of the grid (R170). -/
theorem clampCell_le (t : Nat) : clampCell t ≤ lastCell := by
  unfold clampCell
  split <;> omega

theorem spriteHits_le (cx cy : Nat) (rows : List Byte) : ∀ c ∈ spriteHits cx cy rows, c ≤ lastCell := by
  intro c hc
  simp only [spriteHits, rowHits, List.mem_flatMap, List.mem_map] at hc
  obtain ⟨_, _, _, _, rfl⟩ := hc
  exact clampCell_le _

/-- A fold of hits from any flag: the cells come out flipped once for each hit. -/
theorem foldl_hitCell_cell (hits : List Nat) (p : Screen × Bool) (d : Nat) (h : ∀ c ∈ hits, c ≤ lastCell) :
    (hits.foldl hitCell p).1.cell d = ((p.1.cell d) ^^ (hits.count d % 2 == 1)) := by
  induction hits generalizing p with
  | nil => simp
  | cons c hits ih =>
    have hc := h c (by simp)
    rw [List.foldl_cons, ih _ (fun e he => h e (by simp [he]))]
    simp only [hitCell, Screen.cell_flipCell _ _ _ hc, List.count_cons]
    by_cases hd : d = c
    · subst hd
      rcases Nat.mod_two_eq_zero_or_one (hits.count d) with hm | hm <;>
        simp [hm, Nat.add_mod]
    · have hd' : (c == d) = false := by simpa using fun h => hd h.symm
      simp [hd, hd']

/-- A blit flips each cell as often as it is hit (R172). -/
theorem blit_cell (fb : Screen) (hits : List Nat) (d : Nat) (h : ∀ c ∈ hits, c ≤ lastCell) :
    (blit fb hits).1.cell d = ((fb.cell d) ^^ (hits.count d % 2 == 1)) :=
  foldl_hitCell_cell hits (fb, false) d h

/-- A fold of hits collides if it had collided before, or if a hit meets a cell that is 1 or that another hit flips. -/
theorem foldl_hitCell_collides (hits : List Nat) (p : Screen × Bool) (h : ∀ c ∈ hits, c ≤ lastCell) :
    (hits.foldl hitCell p).2 = true ↔
      p.2 = true ∨ ∃ c, (1 ≤ hits.count c ∧ p.1.cell c = true) ∨ 2 ≤ hits.count c := by
  induction hits generalizing p with
  | nil => simp
  | cons c hits ih =>
    have hc := h c (by simp)
    rw [List.foldl_cons, ih _ (fun e he => h e (by simp [he]))]
    simp only [hitCell, Screen.cell_flipCell _ _ _ hc, List.count_cons, Bool.or_eq_true]
    constructor
    · rintro ((hp | hcell) | ⟨d, hd⟩)
      · exact .inl hp
      · exact .inr ⟨c, .inl ⟨by simp, hcell⟩⟩
      · by_cases hdc : d = c
        · subst hdc
          refine .inr ⟨d, .inr ?_⟩
          simp only [beq_self_eq_true, if_true]
          omega
        · have hd' : (c == d) = false := by simpa using fun h => hdc h.symm
          exact .inr ⟨d, by simpa [hdc, hd'] using hd⟩
    · rintro (hp | ⟨d, hd⟩)
      · exact .inl (.inl hp)
      · by_cases hdc : d = c
        · subst hdc
          rcases hd with ⟨_, h2⟩ | h2
          · exact .inl (.inr h2)
          · simp only [beq_self_eq_true, if_true] at h2
            cases hcell : p.1.cell d with
            | true => exact .inl (.inr rfl)
            | false => exact .inr ⟨d, .inl ⟨by omega, by simp⟩⟩
        · have hd' : (c == d) = false := by simpa using fun h => hdc h.symm
          exact .inr ⟨d, by simpa [hdc, hd'] using hd⟩

/-- A blit reports a collision exactly when a hit meets a cell that is 1, or two hits meet one cell (R172). -/
theorem blit_collides (fb : Screen) (hits : List Nat) (h : ∀ c ∈ hits, c ≤ lastCell) :
    (blit fb hits).2 = true ↔ ∃ c, (1 ≤ hits.count c ∧ fb.cell c = true) ∨ 2 ≤ hits.count c := by
  simpa [blit] using foldl_hitCell_collides hits (fb, false) h

end Sys2Proof.Machine
end

