-- ==== Sys2Proof/Laws/State.lean ====
section
/-! SUPPORT. The state's accessor lemmas: one per field per update, true by rfl, so that no later proof unfolds a record
update. The derived updates (advance, skipIf, push, setFlag) are rewritten to the primitive ones first. -/

namespace Sys2Proof.Machine

/-! ### The derived updates -/

@[simp] theorem State.advance_eq (s : State) : s.advance = s.setPc (s.pc + 2) := rfl
@[simp] theorem State.skipIf_eq (s : State) (c : Bool) : s.skipIf c = s.setPc (if c then s.pc + 4 else s.pc + 2) := rfl
@[simp] theorem State.push_eq (s : State) (a : Word) : s.push a = s.setStack (a :: s.stack) := rfl
@[simp] theorem State.setFlag_eq (s : State) (f : Byte) : s.setFlag f = s.setV VF f := rfl

/-! ### Registers through their accessors -/

/-- Reading a register after writing one (R10). -/
@[simp] theorem State.setV_getV (s : State) (r q : Reg) (b : Byte) :
    (s.setV r b).getV q = if r = q then b else s.getV q := by
  simp [State.getV, State.setV, Vector.getElem_set, Fin.ext_iff]

/-- Reading a register after a block load (R146). -/
@[simp] theorem State.loadBlock_getV (s : State) (a n : Nat) (q : Reg) :
    (s.loadBlock a n).getV q = if q.val < n then s.mem.read (a + q.val) else s.getV q := by
  simp [State.getV, State.loadBlock]

/-! ### The primitive updates, field by field -/

/-! #### `setV` -/

@[simp] theorem State.setV_V (s : State) (r : Reg) (b : Byte) : (s.setV r b).V = s.V.set r b := rfl
@[simp] theorem State.setV_I (s : State) (r : Reg) (b : Byte) : (s.setV r b).I = s.I := rfl
@[simp] theorem State.setV_DT (s : State) (r : Reg) (b : Byte) : (s.setV r b).DT = s.DT := rfl
@[simp] theorem State.setV_ST (s : State) (r : Reg) (b : Byte) : (s.setV r b).ST = s.ST := rfl
@[simp] theorem State.setV_pc (s : State) (r : Reg) (b : Byte) : (s.setV r b).pc = s.pc := rfl
@[simp] theorem State.setV_stack (s : State) (r : Reg) (b : Byte) : (s.setV r b).stack = s.stack := rfl
@[simp] theorem State.setV_K (s : State) (r : Reg) (b : Byte) : (s.setV r b).K = s.K := rfl
@[simp] theorem State.setV_FB (s : State) (r : Reg) (b : Byte) : (s.setV r b).FB = s.FB := rfl
@[simp] theorem State.setV_mem (s : State) (r : Reg) (b : Byte) : (s.setV r b).mem = s.mem := rfl
@[simp] theorem State.setV_status (s : State) (r : Reg) (b : Byte) : (s.setV r b).status = s.status := rfl
@[simp] theorem State.setV_faultCode (s : State) (r : Reg) (b : Byte) : (s.setV r b).faultCode = s.faultCode := rfl
@[simp] theorem State.setV_faultInfo (s : State) (r : Reg) (b : Byte) : (s.setV r b).faultInfo = s.faultInfo := rfl
@[simp] theorem State.setV_draws (s : State) (r : Reg) (b : Byte) : (s.setV r b).draws = s.draws := rfl
@[simp] theorem State.setV_cfg (s : State) (r : Reg) (b : Byte) : (s.setV r b).cfg = s.cfg := rfl

/-! #### `setI` -/

@[simp] theorem State.setI_V (s : State) (w : Word) : (s.setI w).V = s.V := rfl
@[simp] theorem State.setI_I (s : State) (w : Word) : (s.setI w).I = w := rfl
@[simp] theorem State.setI_DT (s : State) (w : Word) : (s.setI w).DT = s.DT := rfl
@[simp] theorem State.setI_ST (s : State) (w : Word) : (s.setI w).ST = s.ST := rfl
@[simp] theorem State.setI_pc (s : State) (w : Word) : (s.setI w).pc = s.pc := rfl
@[simp] theorem State.setI_stack (s : State) (w : Word) : (s.setI w).stack = s.stack := rfl
@[simp] theorem State.setI_K (s : State) (w : Word) : (s.setI w).K = s.K := rfl
@[simp] theorem State.setI_FB (s : State) (w : Word) : (s.setI w).FB = s.FB := rfl
@[simp] theorem State.setI_mem (s : State) (w : Word) : (s.setI w).mem = s.mem := rfl
@[simp] theorem State.setI_status (s : State) (w : Word) : (s.setI w).status = s.status := rfl
@[simp] theorem State.setI_faultCode (s : State) (w : Word) : (s.setI w).faultCode = s.faultCode := rfl
@[simp] theorem State.setI_faultInfo (s : State) (w : Word) : (s.setI w).faultInfo = s.faultInfo := rfl
@[simp] theorem State.setI_draws (s : State) (w : Word) : (s.setI w).draws = s.draws := rfl
@[simp] theorem State.setI_cfg (s : State) (w : Word) : (s.setI w).cfg = s.cfg := rfl
@[simp] theorem State.setI_getV (s : State) (w : Word) (q : Reg) : (s.setI w).getV q = s.getV q := rfl

/-! #### `setDT` -/

@[simp] theorem State.setDT_V (s : State) (b : Byte) : (s.setDT b).V = s.V := rfl
@[simp] theorem State.setDT_I (s : State) (b : Byte) : (s.setDT b).I = s.I := rfl
@[simp] theorem State.setDT_DT (s : State) (b : Byte) : (s.setDT b).DT = b := rfl
@[simp] theorem State.setDT_ST (s : State) (b : Byte) : (s.setDT b).ST = s.ST := rfl
@[simp] theorem State.setDT_pc (s : State) (b : Byte) : (s.setDT b).pc = s.pc := rfl
@[simp] theorem State.setDT_stack (s : State) (b : Byte) : (s.setDT b).stack = s.stack := rfl
@[simp] theorem State.setDT_K (s : State) (b : Byte) : (s.setDT b).K = s.K := rfl
@[simp] theorem State.setDT_FB (s : State) (b : Byte) : (s.setDT b).FB = s.FB := rfl
@[simp] theorem State.setDT_mem (s : State) (b : Byte) : (s.setDT b).mem = s.mem := rfl
@[simp] theorem State.setDT_status (s : State) (b : Byte) : (s.setDT b).status = s.status := rfl
@[simp] theorem State.setDT_faultCode (s : State) (b : Byte) : (s.setDT b).faultCode = s.faultCode := rfl
@[simp] theorem State.setDT_faultInfo (s : State) (b : Byte) : (s.setDT b).faultInfo = s.faultInfo := rfl
@[simp] theorem State.setDT_draws (s : State) (b : Byte) : (s.setDT b).draws = s.draws := rfl
@[simp] theorem State.setDT_cfg (s : State) (b : Byte) : (s.setDT b).cfg = s.cfg := rfl
@[simp] theorem State.setDT_getV (s : State) (b : Byte) (q : Reg) : (s.setDT b).getV q = s.getV q := rfl

/-! #### `setST` -/

@[simp] theorem State.setST_V (s : State) (b : Byte) : (s.setST b).V = s.V := rfl
@[simp] theorem State.setST_I (s : State) (b : Byte) : (s.setST b).I = s.I := rfl
@[simp] theorem State.setST_DT (s : State) (b : Byte) : (s.setST b).DT = s.DT := rfl
@[simp] theorem State.setST_ST (s : State) (b : Byte) : (s.setST b).ST = b := rfl
@[simp] theorem State.setST_pc (s : State) (b : Byte) : (s.setST b).pc = s.pc := rfl
@[simp] theorem State.setST_stack (s : State) (b : Byte) : (s.setST b).stack = s.stack := rfl
@[simp] theorem State.setST_K (s : State) (b : Byte) : (s.setST b).K = s.K := rfl
@[simp] theorem State.setST_FB (s : State) (b : Byte) : (s.setST b).FB = s.FB := rfl
@[simp] theorem State.setST_mem (s : State) (b : Byte) : (s.setST b).mem = s.mem := rfl
@[simp] theorem State.setST_status (s : State) (b : Byte) : (s.setST b).status = s.status := rfl
@[simp] theorem State.setST_faultCode (s : State) (b : Byte) : (s.setST b).faultCode = s.faultCode := rfl
@[simp] theorem State.setST_faultInfo (s : State) (b : Byte) : (s.setST b).faultInfo = s.faultInfo := rfl
@[simp] theorem State.setST_draws (s : State) (b : Byte) : (s.setST b).draws = s.draws := rfl
@[simp] theorem State.setST_cfg (s : State) (b : Byte) : (s.setST b).cfg = s.cfg := rfl
@[simp] theorem State.setST_getV (s : State) (b : Byte) (q : Reg) : (s.setST b).getV q = s.getV q := rfl

/-! #### `setPc` -/

@[simp] theorem State.setPc_V (s : State) (w : Word) : (s.setPc w).V = s.V := rfl
@[simp] theorem State.setPc_I (s : State) (w : Word) : (s.setPc w).I = s.I := rfl
@[simp] theorem State.setPc_DT (s : State) (w : Word) : (s.setPc w).DT = s.DT := rfl
@[simp] theorem State.setPc_ST (s : State) (w : Word) : (s.setPc w).ST = s.ST := rfl
@[simp] theorem State.setPc_pc (s : State) (w : Word) : (s.setPc w).pc = w := rfl
@[simp] theorem State.setPc_stack (s : State) (w : Word) : (s.setPc w).stack = s.stack := rfl
@[simp] theorem State.setPc_K (s : State) (w : Word) : (s.setPc w).K = s.K := rfl
@[simp] theorem State.setPc_FB (s : State) (w : Word) : (s.setPc w).FB = s.FB := rfl
@[simp] theorem State.setPc_mem (s : State) (w : Word) : (s.setPc w).mem = s.mem := rfl
@[simp] theorem State.setPc_status (s : State) (w : Word) : (s.setPc w).status = s.status := rfl
@[simp] theorem State.setPc_faultCode (s : State) (w : Word) : (s.setPc w).faultCode = s.faultCode := rfl
@[simp] theorem State.setPc_faultInfo (s : State) (w : Word) : (s.setPc w).faultInfo = s.faultInfo := rfl
@[simp] theorem State.setPc_draws (s : State) (w : Word) : (s.setPc w).draws = s.draws := rfl
@[simp] theorem State.setPc_cfg (s : State) (w : Word) : (s.setPc w).cfg = s.cfg := rfl
@[simp] theorem State.setPc_getV (s : State) (w : Word) (q : Reg) : (s.setPc w).getV q = s.getV q := rfl

/-! #### `setStack` -/

@[simp] theorem State.setStack_V (s : State) (st : List Word) : (s.setStack st).V = s.V := rfl
@[simp] theorem State.setStack_I (s : State) (st : List Word) : (s.setStack st).I = s.I := rfl
@[simp] theorem State.setStack_DT (s : State) (st : List Word) : (s.setStack st).DT = s.DT := rfl
@[simp] theorem State.setStack_ST (s : State) (st : List Word) : (s.setStack st).ST = s.ST := rfl
@[simp] theorem State.setStack_pc (s : State) (st : List Word) : (s.setStack st).pc = s.pc := rfl
@[simp] theorem State.setStack_stack (s : State) (st : List Word) : (s.setStack st).stack = st := rfl
@[simp] theorem State.setStack_K (s : State) (st : List Word) : (s.setStack st).K = s.K := rfl
@[simp] theorem State.setStack_FB (s : State) (st : List Word) : (s.setStack st).FB = s.FB := rfl
@[simp] theorem State.setStack_mem (s : State) (st : List Word) : (s.setStack st).mem = s.mem := rfl
@[simp] theorem State.setStack_status (s : State) (st : List Word) : (s.setStack st).status = s.status := rfl
@[simp] theorem State.setStack_faultCode (s : State) (st : List Word) : (s.setStack st).faultCode = s.faultCode := rfl
@[simp] theorem State.setStack_faultInfo (s : State) (st : List Word) : (s.setStack st).faultInfo = s.faultInfo := rfl
@[simp] theorem State.setStack_draws (s : State) (st : List Word) : (s.setStack st).draws = s.draws := rfl
@[simp] theorem State.setStack_cfg (s : State) (st : List Word) : (s.setStack st).cfg = s.cfg := rfl
@[simp] theorem State.setStack_getV (s : State) (st : List Word) (q : Reg) : (s.setStack st).getV q = s.getV q := rfl

/-! #### `setFB` -/

@[simp] theorem State.setFB_V (s : State) (fb : Screen) : (s.setFB fb).V = s.V := rfl
@[simp] theorem State.setFB_I (s : State) (fb : Screen) : (s.setFB fb).I = s.I := rfl
@[simp] theorem State.setFB_DT (s : State) (fb : Screen) : (s.setFB fb).DT = s.DT := rfl
@[simp] theorem State.setFB_ST (s : State) (fb : Screen) : (s.setFB fb).ST = s.ST := rfl
@[simp] theorem State.setFB_pc (s : State) (fb : Screen) : (s.setFB fb).pc = s.pc := rfl
@[simp] theorem State.setFB_stack (s : State) (fb : Screen) : (s.setFB fb).stack = s.stack := rfl
@[simp] theorem State.setFB_K (s : State) (fb : Screen) : (s.setFB fb).K = s.K := rfl
@[simp] theorem State.setFB_FB (s : State) (fb : Screen) : (s.setFB fb).FB = fb := rfl
@[simp] theorem State.setFB_mem (s : State) (fb : Screen) : (s.setFB fb).mem = s.mem := rfl
@[simp] theorem State.setFB_status (s : State) (fb : Screen) : (s.setFB fb).status = s.status := rfl
@[simp] theorem State.setFB_faultCode (s : State) (fb : Screen) : (s.setFB fb).faultCode = s.faultCode := rfl
@[simp] theorem State.setFB_faultInfo (s : State) (fb : Screen) : (s.setFB fb).faultInfo = s.faultInfo := rfl
@[simp] theorem State.setFB_draws (s : State) (fb : Screen) : (s.setFB fb).draws = s.draws := rfl
@[simp] theorem State.setFB_cfg (s : State) (fb : Screen) : (s.setFB fb).cfg = s.cfg := rfl
@[simp] theorem State.setFB_getV (s : State) (fb : Screen) (q : Reg) : (s.setFB fb).getV q = s.getV q := rfl

/-! #### `setMem` -/

@[simp] theorem State.setMem_V (s : State) (m : Memory) : (s.setMem m).V = s.V := rfl
@[simp] theorem State.setMem_I (s : State) (m : Memory) : (s.setMem m).I = s.I := rfl
@[simp] theorem State.setMem_DT (s : State) (m : Memory) : (s.setMem m).DT = s.DT := rfl
@[simp] theorem State.setMem_ST (s : State) (m : Memory) : (s.setMem m).ST = s.ST := rfl
@[simp] theorem State.setMem_pc (s : State) (m : Memory) : (s.setMem m).pc = s.pc := rfl
@[simp] theorem State.setMem_stack (s : State) (m : Memory) : (s.setMem m).stack = s.stack := rfl
@[simp] theorem State.setMem_K (s : State) (m : Memory) : (s.setMem m).K = s.K := rfl
@[simp] theorem State.setMem_FB (s : State) (m : Memory) : (s.setMem m).FB = s.FB := rfl
@[simp] theorem State.setMem_mem (s : State) (m : Memory) : (s.setMem m).mem = m := rfl
@[simp] theorem State.setMem_status (s : State) (m : Memory) : (s.setMem m).status = s.status := rfl
@[simp] theorem State.setMem_faultCode (s : State) (m : Memory) : (s.setMem m).faultCode = s.faultCode := rfl
@[simp] theorem State.setMem_faultInfo (s : State) (m : Memory) : (s.setMem m).faultInfo = s.faultInfo := rfl
@[simp] theorem State.setMem_draws (s : State) (m : Memory) : (s.setMem m).draws = s.draws := rfl
@[simp] theorem State.setMem_cfg (s : State) (m : Memory) : (s.setMem m).cfg = s.cfg := rfl
@[simp] theorem State.setMem_getV (s : State) (m : Memory) (q : Reg) : (s.setMem m).getV q = s.getV q := rfl

/-! #### `loadBlock` -/

@[simp] theorem State.loadBlock_V (s : State) (a n : Nat) : (s.loadBlock a n).V = s.V.mapIdx (fun j b => if j < n then s.mem.read (a + j) else b) := rfl
@[simp] theorem State.loadBlock_I (s : State) (a n : Nat) : (s.loadBlock a n).I = s.I := rfl
@[simp] theorem State.loadBlock_DT (s : State) (a n : Nat) : (s.loadBlock a n).DT = s.DT := rfl
@[simp] theorem State.loadBlock_ST (s : State) (a n : Nat) : (s.loadBlock a n).ST = s.ST := rfl
@[simp] theorem State.loadBlock_pc (s : State) (a n : Nat) : (s.loadBlock a n).pc = s.pc := rfl
@[simp] theorem State.loadBlock_stack (s : State) (a n : Nat) : (s.loadBlock a n).stack = s.stack := rfl
@[simp] theorem State.loadBlock_K (s : State) (a n : Nat) : (s.loadBlock a n).K = s.K := rfl
@[simp] theorem State.loadBlock_FB (s : State) (a n : Nat) : (s.loadBlock a n).FB = s.FB := rfl
@[simp] theorem State.loadBlock_mem (s : State) (a n : Nat) : (s.loadBlock a n).mem = s.mem := rfl
@[simp] theorem State.loadBlock_status (s : State) (a n : Nat) : (s.loadBlock a n).status = s.status := rfl
@[simp] theorem State.loadBlock_faultCode (s : State) (a n : Nat) : (s.loadBlock a n).faultCode = s.faultCode := rfl
@[simp] theorem State.loadBlock_faultInfo (s : State) (a n : Nat) : (s.loadBlock a n).faultInfo = s.faultInfo := rfl
@[simp] theorem State.loadBlock_draws (s : State) (a n : Nat) : (s.loadBlock a n).draws = s.draws := rfl
@[simp] theorem State.loadBlock_cfg (s : State) (a n : Nat) : (s.loadBlock a n).cfg = s.cfg := rfl

/-! #### `raise` -/

@[simp] theorem raise_V (c : FaultCause) (s : State) : (raise c s).V = s.V := rfl
@[simp] theorem raise_I (c : FaultCause) (s : State) : (raise c s).I = s.I := rfl
@[simp] theorem raise_DT (c : FaultCause) (s : State) : (raise c s).DT = s.DT := rfl
@[simp] theorem raise_ST (c : FaultCause) (s : State) : (raise c s).ST = s.ST := rfl
@[simp] theorem raise_pc (c : FaultCause) (s : State) : (raise c s).pc = s.pc := rfl
@[simp] theorem raise_stack (c : FaultCause) (s : State) : (raise c s).stack = s.stack := rfl
@[simp] theorem raise_K (c : FaultCause) (s : State) : (raise c s).K = s.K := rfl
@[simp] theorem raise_FB (c : FaultCause) (s : State) : (raise c s).FB = s.FB := rfl
@[simp] theorem raise_mem (c : FaultCause) (s : State) : (raise c s).mem = s.mem := rfl
@[simp] theorem raise_status (c : FaultCause) (s : State) : (raise c s).status = .faulted := rfl
@[simp] theorem raise_faultCode (c : FaultCause) (s : State) : (raise c s).faultCode = c.code := rfl
@[simp] theorem raise_faultInfo (c : FaultCause) (s : State) : (raise c s).faultInfo = { value := c.value, pc0 := s.pc } := rfl
@[simp] theorem raise_draws (c : FaultCause) (s : State) : (raise c s).draws = s.draws := rfl
@[simp] theorem raise_cfg (c : FaultCause) (s : State) : (raise c s).cfg = s.cfg := rfl
@[simp] theorem raise_getV (c : FaultCause) (s : State) (q : Reg) : (raise c s).getV q = s.getV q := rfl

/-! #### `endStep` -/

@[simp] theorem endStep_V (s : State) : (endStep s).V = s.V := rfl
@[simp] theorem endStep_I (s : State) : (endStep s).I = s.I := rfl
@[simp] theorem endStep_DT (s : State) : (endStep s).DT = decayTimer s.DT := rfl
@[simp] theorem endStep_ST (s : State) : (endStep s).ST = decayTimer s.ST := rfl
@[simp] theorem endStep_pc (s : State) : (endStep s).pc = s.pc := rfl
@[simp] theorem endStep_stack (s : State) : (endStep s).stack = s.stack := rfl
@[simp] theorem endStep_K (s : State) : (endStep s).K = s.K := rfl
@[simp] theorem endStep_FB (s : State) : (endStep s).FB = s.FB := rfl
@[simp] theorem endStep_mem (s : State) : (endStep s).mem = s.mem := rfl
@[simp] theorem endStep_status (s : State) : (endStep s).status = s.status := rfl
@[simp] theorem endStep_faultCode (s : State) : (endStep s).faultCode = s.faultCode := rfl
@[simp] theorem endStep_faultInfo (s : State) : (endStep s).faultInfo = s.faultInfo := rfl
@[simp] theorem endStep_draws (s : State) : (endStep s).draws = s.draws + 1 := rfl
@[simp] theorem endStep_cfg (s : State) : (endStep s).cfg = s.cfg := rfl
@[simp] theorem endStep_getV (s : State) (q : Reg) : (endStep s).getV q = s.getV q := rfl

end Sys2Proof.Machine
end

