-- ==== Sys2Proof/Laws/Ops.lean ====
section
/-! SUPPORT. What each shared operation and the step can do, said once: the lemmas that later proofs cite instead of
unfolding. -/

namespace Sys2Proof.Machine

/-! ### Data accesses -/

/-- The addresses of an access are the `n` addresses from `I` on. -/
theorem mem_accessAddrs (s : State) (n a : Nat) : a ∈ accessAddrs s n ↔ s.I.toNat ≤ a ∧ a < s.I.toNat + n := by
  simp only [accessAddrs, effAddr, List.mem_map, List.mem_range]
  exact ⟨fun ⟨i, hi, h⟩ => by omega, fun h => ⟨a - s.I.toNat, by omega, by omega⟩⟩

/-- All addresses are in the store exactly when the last one is (R182). -/
theorem firstOutOfRange_eq_none (s : State) (n : Nat) :
    firstOutOfRange (accessAddrs s n) = none ↔ n = 0 ∨ s.I.toNat + n ≤ 4096 := by
  simp only [firstOutOfRange, lastAddr, List.find?_eq_none, mem_accessAddrs, decide_eq_true_eq, not_lt]
  constructor
  · intro h
    by_cases hn : n = 0
    · exact .inl hn
    · exact .inr (by have := h (s.I.toNat + n - 1) (by omega); omega)
  · intro h a ha
    omega

/-- The first address out of range is the lowest one above 4095 (R182). -/
theorem firstOutOfRange_eq_some (s : State) (n : Nat) (hn : n ≠ 0) (h : 4096 < s.I.toNat + n) :
    firstOutOfRange (accessAddrs s n) = some (max s.I.toNat 4096) := by
  induction n with
  | zero => exact absurd rfl hn
  | succ n ih =>
    have happ : accessAddrs s (n + 1) = accessAddrs s n ++ [effAddr s n] := by
      simp [accessAddrs, List.range_succ]
    have hfind : firstOutOfRange (accessAddrs s (n + 1)) =
        (firstOutOfRange (accessAddrs s n)).or (firstOutOfRange [effAddr s n]) := by
      simp [firstOutOfRange, happ, List.find?_append]
    rw [hfind]
    by_cases hlast : n ≠ 0 ∧ 4096 < s.I.toNat + n
    · rw [ih hlast.1 hlast.2]; rfl
    · rw [(firstOutOfRange_eq_none s n).mpr (by omega)]
      have : 4095 < effAddr s n := by simp only [effAddr]; omega
      simp only [firstOutOfRange, lastAddr, List.find?_cons, this, decide_true, Option.none_or]
      congr 1
      simp only [effAddr]
      omega

/-- An access that stays in the store answers what the instruction computes. -/
theorem withAccess_inRange (n : Nat) (s t : State) (h : n = 0 ∨ s.I.toNat + n ≤ 4096) :
    withAccess n s t = .next t := by
  simp [withAccess, (firstOutOfRange_eq_none s n).mpr h]

/-- An access that leaves the store takes `AddressOutOfRange` with the lowest offending address (R140, R182). -/
theorem withAccess_outOfRange (n : Nat) (s t : State) (hn : n ≠ 0) (h : 4096 < s.I.toNat + n) :
    withAccess n s t = .next (raise (.addressOutOfRange (max s.I.toNat 4096)) s) := by
  simp [withAccess, firstOutOfRange_eq_some s n hn h, raised]

/-- Everything an access can do. -/
theorem withAccess_cases {n : Nat} {s t u : State} (h : withAccess n s t = .next u) :
    ((n = 0 ∨ s.I.toNat + n ≤ 4096) ∧ u = t) ∨
    (n ≠ 0 ∧ 4096 < s.I.toNat + n ∧ u = raise (.addressOutOfRange (max s.I.toNat 4096)) s) := by
  by_cases hr : n = 0 ∨ s.I.toNat + n ≤ 4096
  · rw [withAccess_inRange n s t hr] at h
    exact .inl ⟨hr, by injection h with h; exact h.symm⟩
  · rw [withAccess_outOfRange n s t (by omega) (by omega)] at h
    exact .inr ⟨by omega, by omega, by injection h with h; exact h.symm⟩

/-! ### Raising -/

/-- Every fault has one of the five codes (R180). -/
theorem FaultCause.code_bounds (c : FaultCause) : 1 ≤ c.code.toNat ∧ c.code.toNat ≤ 5 := by
  cases c <;> simp [FaultCause.code]

/-- Raising a fault leaves the core faulted, so the step ends there (R186). -/
@[simp] theorem finishStep_raise (c : FaultCause) (s : State) : finishStep (raise c s) = raise c s := rfl

/-! ### Key tests and the stack -/

/-- Everything a key test can do (R106, R107). -/
theorem skipOnKey_cases {p : Bool} {x : Reg} {s u : State} (h : skipOnKey p x s = .next u) :
    ((s.getV x).toNat ≤ 15 ∧ u = s.skipIf (s.key (s.getV x).toNat == p)) ∨
    (15 < (s.getV x).toNat ∧ u = raise (.keyIndexOutOfRange (s.getV x)) s) := by
  unfold skipOnKey raised at h
  split at h
  · next hk => exact .inr ⟨hk, by injection h with h; exact h.symm⟩
  · next hk => exact .inl ⟨not_lt.mp hk, by injection h with h; exact h.symm⟩

/-- When the stack is full (R184). -/
theorem State.stackFull_iff (s : State) : s.stackFull = true ↔ ∃ d, s.cfg.stackDepth = some d ∧ d ≤ s.stack.length := by
  unfold State.stackFull
  cases s.cfg.stackDepth <;> simp

/-! ### The keypad scan -/

theorem foldl_lastPressed (s : State) (n : Nat) :
    (List.range n).foldl (fun found k => if s.key k then some k else found) none = none ∧ (∀ k < n, s.key k = false) ∨
    ∃ k < n, (List.range n).foldl (fun found k => if s.key k then some k else found) none = some k ∧ s.key k = true ∧
      ∀ j < n, k < j → s.key j = false := by
  induction n with
  | zero => simp
  | succ n ih =>
    simp only [List.range_succ, List.foldl_append, List.foldl_cons, List.foldl_nil]
    cases hk : s.key n with
    | true => exact .inr ⟨n, by omega, by simp, hk, fun j _ _ => by omega⟩
    | false =>
      rcases ih with ⟨h, hall⟩ | ⟨k, hkn, h, hp, hmax⟩
      · refine .inl ⟨by simpa using h, fun j hj => ?_⟩
        rcases Nat.lt_succ_iff_lt_or_eq.mp hj with hj | rfl
        · exact hall j hj
        · exact hk
      · refine .inr ⟨k, by omega, by simpa using h, hp, fun j hj hkj => ?_⟩
        rcases Nat.lt_succ_iff_lt_or_eq.mp hj with hj | rfl
        · exact hmax j hj hkj
        · exact hk

/-- The scan finds no key when none is pressed, and else the highest one that is (R161). -/
theorem State.lastPressed_cases (s : State) :
    (s.lastPressed = none ∧ ∀ k < 16, s.key k = false) ∨
    ∃ k < 16, s.lastPressed = some k ∧ s.key k = true ∧ ∀ j < 16, k < j → s.key j = false :=
  foldl_lastPressed s 16

/-! ### The step -/

/-- A fetch at `pc <= 4094` gives the two bytes there, the first the high one (R91). -/
theorem fetch_inRange (s : State) (h : s.pc.toNat ≤ 4094) :
    fetch s = .ok (s.mem.read s.pc.toNat ++ s.mem.read (s.pc.toNat + 1)) := by
  simp only [fetch, lastAddr]
  rw [if_neg (by omega), if_neg (by omega)]
  rfl

/-- Every other fetch names the first address out of the store (R91). -/
theorem fetch_outOfRange (s : State) (h : 4094 < s.pc.toNat) :
    fetch s = .error (.addressOutOfRange (max s.pc.toNat 4096)) := by
  simp only [fetch, lastAddr]
  by_cases h' : 4095 < s.pc.toNat
  · rw [if_pos h', Nat.max_eq_left (by omega)]
  · rw [if_neg h', if_pos (by omega), Nat.max_eq_right (by omega), show s.pc.toNat + 1 = 4096 by omega]

/-- Everything a step with a next state can have done: a fetch fault, an unrecognized word, or one instruction. -/
theorem step_cases {s t : State} (h : step s = .next t) :
    s.status = .running ∧
    ((∃ cause, fetch s = .error cause ∧ t = raise cause s) ∨
     (∃ op e, fetch s = .ok op ∧ decodeWord op = .error e ∧ t = raise (.unrecognizedOpcode op) s) ∨
     (∃ op i u, fetch s = .ok op ∧ decodeWord op = .ok i ∧ exec i s = .next u ∧ t = finishStep u)) := by
  unfold step at h
  split at h
  · cases h
  · next hs =>
    refine ⟨hs, ?_⟩
    split at h
    · next cause hf => exact .inl ⟨cause, hf, by unfold raised at h; injection h with h; exact h.symm⟩
    · next op hf =>
      split at h
      · next e hd => exact .inr (.inl ⟨op, e, hf, hd, by unfold raised at h; injection h with h; exact h.symm⟩)
      · next i hd =>
        split at h
        · next u he => exact .inr (.inr ⟨op, i, u, hf, hd, he, by injection h with h; exact h.symm⟩)
        · cases h
        · cases h

theorem finishStep_running (s : State) (h : s.status = .running) : finishStep s = endStep s := by
  simp [finishStep, h]

theorem finishStep_faulted (s : State) (h : s.status = .faulted) : finishStep s = s := by
  simp [finishStep, h]

end Sys2Proof.Machine
end

