-- ==== Sys2Proof/Laws/PerInstr.lean ====
section
/-! SUPPORT. Facts proved of every instruction, one lemma per constructor. Family `InItsRow`: the word of an instruction
is a word of its own row of the opcode map (spec/30_encoding.md R74, R82). -/

namespace Sys2Proof.Laws.InItsRow

/-- The opcode map has a row with this instruction's mnemonic, and its word matches that row's pattern. -/
def Statement (i : Instr) : Prop :=
  ∃ row ∈ opcodeTable, row.mnemonic = i.mnemonic ∧ encode i &&& row.mask = row.bits

/-- How a lemma below is built: the row, its place in the map, and the match. -/
theorem of_row (i : Instr) (n : Nat) (hn : n < opcodeTable.length) (hm : opcodeTable[n].mnemonic = i.mnemonic)
    (he : encode i &&& opcodeTable[n].mask = opcodeTable[n].bits) : Statement i :=
  ⟨opcodeTable[n], List.getElem_mem hn, hm, he⟩

theorem cls : Statement .cls :=
  of_row _ 0 (by decide) rfl (by decide)
theorem ret : Statement .ret :=
  of_row _ 1 (by decide) rfl (by decide)
theorem jmp (nnn : Addr12) : Statement (.jmp nnn) :=
  of_row _ 2 (by decide) rfl (wordA_mask _ _)
theorem call (nnn : Addr12) : Statement (.call nnn) :=
  of_row _ 3 (by decide) rfl (wordA_mask _ _)
theorem seVB (x : Reg) (kk : Byte) : Statement (.seVB x kk) :=
  of_row _ 4 (by decide) rfl (wordXK_mask _ _ _)
theorem sneVB (x : Reg) (kk : Byte) : Statement (.sneVB x kk) :=
  of_row _ 5 (by decide) rfl (wordXK_mask _ _ _)
theorem seVV (x : Reg) (y : Reg) : Statement (.seVV x y) :=
  of_row _ 6 (by decide) rfl (wordXY_mask _ _ _ _)
theorem ldVB (x : Reg) (kk : Byte) : Statement (.ldVB x kk) :=
  of_row _ 7 (by decide) rfl (wordXK_mask _ _ _)
theorem addVB (x : Reg) (kk : Byte) : Statement (.addVB x kk) :=
  of_row _ 8 (by decide) rfl (wordXK_mask _ _ _)
theorem ldVV (x : Reg) (y : Reg) : Statement (.ldVV x y) :=
  of_row _ 9 (by decide) rfl (wordXY_mask _ _ _ _)
theorem orVV (x : Reg) (y : Reg) : Statement (.orVV x y) :=
  of_row _ 10 (by decide) rfl (wordXY_mask _ _ _ _)
theorem andVV (x : Reg) (y : Reg) : Statement (.andVV x y) :=
  of_row _ 11 (by decide) rfl (wordXY_mask _ _ _ _)
theorem xorVV (x : Reg) (y : Reg) : Statement (.xorVV x y) :=
  of_row _ 12 (by decide) rfl (wordXY_mask _ _ _ _)
theorem addVV (x : Reg) (y : Reg) : Statement (.addVV x y) :=
  of_row _ 13 (by decide) rfl (wordXY_mask _ _ _ _)
theorem sub (x : Reg) (y : Reg) : Statement (.sub x y) :=
  of_row _ 14 (by decide) rfl (wordXY_mask _ _ _ _)
theorem shr (x : Reg) (y : Reg) : Statement (.shr x y) :=
  of_row _ 15 (by decide) rfl (wordXY_mask _ _ _ _)
theorem subn (x : Reg) (y : Reg) : Statement (.subn x y) :=
  of_row _ 16 (by decide) rfl (wordXY_mask _ _ _ _)
theorem shl (x : Reg) (y : Reg) : Statement (.shl x y) :=
  of_row _ 17 (by decide) rfl (wordXY_mask _ _ _ _)
theorem sneVV (x : Reg) (y : Reg) : Statement (.sneVV x y) :=
  of_row _ 18 (by decide) rfl (wordXY_mask _ _ _ _)
theorem ldI (nnn : Addr12) : Statement (.ldI nnn) :=
  of_row _ 19 (by decide) rfl (wordA_mask _ _)
theorem jmpVA (nnn : Addr12) : Statement (.jmpVA nnn) :=
  of_row _ 20 (by decide) rfl (wordA_mask _ _)
theorem rnd (x : Reg) (kk : Byte) : Statement (.rnd x kk) :=
  of_row _ 21 (by decide) rfl (wordXK_mask _ _ _)
theorem drw (x : Reg) (y : Reg) (n : Nat) : Statement (.drw x y n) :=
  of_row _ 22 (by decide) rfl (wordXYN_mask _ _ _ _)
theorem skp (x : Reg) : Statement (.skp x) :=
  of_row _ 23 (by decide) rfl (wordX_mask _ _ _)
theorem sknp (x : Reg) : Statement (.sknp x) :=
  of_row _ 24 (by decide) rfl (wordX_mask _ _ _)
theorem ldVDT (x : Reg) : Statement (.ldVDT x) :=
  of_row _ 25 (by decide) rfl (wordX_mask _ _ _)
theorem ldVK (x : Reg) : Statement (.ldVK x) :=
  of_row _ 26 (by decide) rfl (wordX_mask _ _ _)
theorem ldDTV (x : Reg) : Statement (.ldDTV x) :=
  of_row _ 27 (by decide) rfl (wordX_mask _ _ _)
theorem ldSTV (x : Reg) : Statement (.ldSTV x) :=
  of_row _ 28 (by decide) rfl (wordX_mask _ _ _)
theorem addI (x : Reg) : Statement (.addI x) :=
  of_row _ 29 (by decide) rfl (wordX_mask _ _ _)
theorem ldF (x : Reg) : Statement (.ldF x) :=
  of_row _ 30 (by decide) rfl (wordX_mask _ _ _)
theorem ldB (x : Reg) : Statement (.ldB x) :=
  of_row _ 31 (by decide) rfl (wordX_mask _ _ _)
theorem ldMV (count : Nat) : Statement (.ldMV count) :=
  of_row _ 32 (by decide) rfl (wordX_mask _ _ _)
theorem ldVM (count : Nat) : Statement (.ldVM count) :=
  of_row _ 33 (by decide) rfl (wordX_mask _ _ _)

end Sys2Proof.Laws.InItsRow
end

