-- ==== Sys2Proof/Tests/Slice0.lean ====
section
/-! SUPPORT. The model's own tests. Expected values are from spec/95_test_vectors.md (the vector named in each comment)
and spec/90_conflicts.md, not from the model. At the end, a witness for the hypotheses of each statement that has some. -/

namespace Sys2Proof.Tests

open Sys2Proof Sys2Proof.Machine

/-! ### Helpers -/

/-- Reset, with one word where the first step fetches. -/
def boot (op : Nat) : State := State.reset.withFetchWord 16 op

/-- What one step leaves, seen through `f`. -/
def after {α : Type} (s : State) (f : State → α) : Option α := (nextState (step s)).map f

/-- The state with these keys pressed. -/
def press (keys : List Nat) (s : State) : State := { s with K := keys.foldl (fun k n => k.setIfInBounds n true) s.K }

/-- The state with these bytes in memory from `a` on. -/
def setBytes (a : Nat) (bs : List Byte) (s : State) : State := s.setMem (s.mem.writeBytes a bs)

/-- The cells that are 1 among the first 400. -/
def litCells (fb : Screen) : List Nat := (List.range 400).filter fb.cell

/-! ### WellFormed: a term each check refuses -/

theorem test_illformed_drw : Instr.WellFormed (.drw 0 0 16) = false := by decide
theorem test_illformed_ldMV : Instr.WellFormed (.ldMV 16) = false := by decide
theorem test_illformed_ldVM : Instr.WellFormed (.ldVM 16) = false := by decide
theorem test_wellformed_at_the_bound :
    (Instr.WellFormed (.drw 15 15 15) && Instr.WellFormed (.ldMV 15) && Instr.WellFormed (.ldVM 15)) = true := by decide

/-! ### Decoding -/

/-- The words of 95_test_vectors.md 2.1 for this group, written out bit by bit. -/
theorem test_decode_no_operand_and_address :
    ([(0b0000000011100000, .cls),
     (0b0000000011101110, .ret),
     (0b0001101010111100, .jmp 0xABC),
     (0b0010001100000000, .call 0x300),
     (0b1010001011110000, .ldI 0x2F0),
     (0b1011111111111111, .jmpVA 0xFFF)] : List (Nat × Instr)).all
      (fun p => decodeTableWord 16 p.1 == some p.2) = true := by decide

/-- The words of 95_test_vectors.md 2.1 for this group, written out bit by bit. -/
theorem test_decode_register_and_byte :
    ([(0b0011001100101010, .seVB 3 0x2A),
     (0b0100111100000000, .sneVB 15 0),
     (0b0110101011001000, .ldVB 10 0xC8),
     (0b0111010111111111, .addVB 5 0xFF),
     (0b1100001100001111, .rnd 3 0x0F)] : List (Nat × Instr)).all
      (fun p => decodeTableWord 16 p.1 == some p.2) = true := by decide

/-- The words of 95_test_vectors.md 2.1 for this group, written out bit by bit. -/
theorem test_decode_two_registers :
    ([(0b0101000100100000, .seVV 1 2),
     (0b1000000100100000, .ldVV 1 2),
     (0b1000000100100001, .orVV 1 2),
     (0b1000000100100010, .andVV 1 2),
     (0b1000000100100011, .xorVV 1 2),
     (0b1000000100100100, .addVV 1 2),
     (0b1000000100100101, .sub 1 2),
     (0b1000000100100110, .shr 1 2),
     (0b1000000100100111, .subn 1 2),
     (0b1000000100101110, .shl 1 2),
     (0b1001101010110000, .sneVV 10 11),
     (0b1101000100100101, .drw 1 2 5)] : List (Nat × Instr)).all
      (fun p => decodeTableWord 16 p.1 == some p.2) = true := by decide

/-- The words of 95_test_vectors.md 2.1 for this group, written out bit by bit. -/
theorem test_decode_one_register :
    ([(0b1110010010011110, .skp 4),
     (0b1110010010100001, .sknp 4),
     (0b1111001000000111, .ldVDT 2),
     (0b1111001000001010, .ldVK 2),
     (0b1111001000010101, .ldDTV 2),
     (0b1111001000011000, .ldSTV 2),
     (0b1111001000011110, .addI 2),
     (0b1111001000101001, .ldF 2),
     (0b1111001000110011, .ldB 2),
     (0b1111001001010101, .ldMV 2),
     (0b1111001001100101, .ldVM 2)] : List (Nat × Instr)).all
      (fun p => decodeTableWord 16 p.1 == some p.2) = true := by decide

/-- The unrecognized words of 95_test_vectors.md 2.1. -/
theorem test_decode_rejects :
    ([0x0000, 0x00E1, 0x00EF, 0x0123, 0x0FFF, 0x5121, 0x512F, 0x9AB1, 0x8128, 0x8129, 0x812A, 0x812D, 0x812F, 0xE19F, 0xE100, 0xE1A2, 0xF1FF, 0xF100, 0xF175, 0xF185, 0xF130] : List Nat).all
      (fun w => decodeTableWord 16 w == none) = true := by decide

theorem test_decode_truncated : decode [0x60] = .error .truncated := rfl

theorem test_decode_leaves_the_rest : decode [0x83, 0xA4, 0x12] = .ok (.addVV 3 10, [0x12]) := rfl

/-- R82's example. -/
theorem test_encode_bytes : encodeBytes (.addVV 3 10) = [0x83, 0xA4] := by decide

/-! ### One step -/

/-- 95 K12, R165: a zero mask gives 0 whatever is drawn; 95 K14: no bit outside the mask is set. -/
theorem test_rnd_masks_any_draw :
    ∃ t, execRnd 3 0 (boot 0xC300) = .next t ∧ t.getV 3 = 0 :=
  ⟨_, rfl, by simp⟩

theorem test_rnd_steps_on : after (boot 0xC30F) (fun t => (t.pc, t.draws)) = some (0x202, 1) := by decide

/-- 95 CF1, R102. -/
theorem test_se_vb_skips :
    after (boot 0x332A |>.setV 3 0x2A) (fun t => (t.pc)) = some (0x204) := by decide

/-- 95 CF2, R102. -/
theorem test_se_vb_goes_on :
    after (boot 0x332A |>.setV 3 0x2B) (fun t => (t.pc)) = some (0x202) := by decide

/-- 95 CF3, R103. -/
theorem test_sne_vb_goes_on :
    after (boot 0x432A |>.setV 3 0x2A) (fun t => (t.pc)) = some (0x202) := by decide

/-- 95 CF4, R103. -/
theorem test_sne_vb_skips :
    after (boot 0x432A) (fun t => (t.pc)) = some (0x204) := by decide

/-- 95 CF5, R104. -/
theorem test_se_vv_skips :
    after (boot 0x5120 |>.setV 1 7 |>.setV 2 7) (fun t => (t.pc)) = some (0x204) := by decide

/-- 95 CF6, R104. -/
theorem test_se_vv_goes_on :
    after (boot 0x5120 |>.setV 1 7 |>.setV 2 8) (fun t => (t.pc)) = some (0x202) := by decide

/-- 95 CF8, R105. -/
theorem test_sne_vv_skips :
    after (boot 0x9120 |>.setV 1 7 |>.setV 2 8) (fun t => (t.pc)) = some (0x204) := by decide

/-- 95 CF9, R105. -/
theorem test_sne_vv_goes_on :
    after (boot 0x9120 |>.setV 1 7 |>.setV 2 7) (fun t => (t.pc)) = some (0x202) := by decide

/-- 95 CF10, R106. -/
theorem test_skp_skips_on_pressed_key :
    after (press [10] (boot 0xE49E |>.setV 4 10)) (fun t => (t.pc)) = some (0x204) := by decide

/-- 95 CF13, R106: key 0x1A faults although key 10 is pressed. -/
theorem test_skp_does_not_mask_the_key :
    after (press [10] (boot 0xE49E |>.setV 4 0x1A)) (fun t => (t.pc, t.status, t.faultCode, t.faultInfo)) = some (0x200, .faulted, 5, { value := some 26, pc0 := 0x200 }) := by decide

/-- 95 CF14, R107. -/
theorem test_sknp_skips_on_released_key :
    after (boot 0xE4A1 |>.setV 4 10) (fun t => (t.pc)) = some (0x204) := by decide

/-- 95 CF15, R107. -/
theorem test_sknp_goes_on_with_pressed_key :
    after (press [10] (boot 0xE4A1 |>.setV 4 10)) (fun t => (t.pc)) = some (0x202) := by decide

/-- 95 CF17, R108. -/
theorem test_jmp :
    after (boot 0x1ABC) (fun t => (t.pc)) = some (0xABC) := by decide

/-- 95 CF21, R109. -/
theorem test_jmp_va_is_not_masked :
    after (boot 0xBFFF |>.setV 0 0xFF) (fun t => (t.pc, t.status)) = some (0x10FE, .running) := by decide

/-- 95 CF20, R109. -/
theorem test_jmp_va_adds_v0 :
    after (boot 0xB300 |>.setV 0 0x10) (fun t => (t.pc)) = some (0x310) := by decide

/-- 95 CF22, R110. -/
theorem test_call_pushes_next_address :
    after ({ State.reset with pc := 0x208 }.withFetchWord 16 0x2300) (fun t => (t.stack, t.pc)) = some ([0x20A], 0x300) := by decide

/-- 95 CF23, R110, R184. -/
theorem test_call_on_full_stack_faults :
    after (boot 0x2300 |>.setStack (List.replicate 16 0x202)) (fun t => (t.stack.length, t.pc, t.status, t.faultCode, t.faultInfo)) = some (16, 0x200, .faulted, 4, { value := none, pc0 := 0x200 }) := by decide

/-- 95 CF26, R111: the model writes the top first. -/
theorem test_ret_pops_the_top :
    after (boot 0x00EE |>.setStack [0x456, 0x20A]) (fun t => (t.stack, t.pc)) = some ([0x20A], 0x456) := by decide

/-- 95 X6, R111, R187. -/
theorem test_ret_on_empty_stack_faults_without_decay :
    after (boot 0x00EE |>.setDT 3 |>.setST 2) (fun t => (t.DT, t.ST, t.pc, t.faultCode, t.faultInfo)) = some (3, 2, 0x200, 2, { value := none, pc0 := 0x200 }) := by decide

/-- 95 A1, R121. -/
theorem test_or :
    after (boot 0x8121 |>.setV 1 0xCC |>.setV 2 0xAA) (fun t => (t.getV 1, t.getV 15, t.pc)) = some (0xEE, 0, 0x202) := by decide

/-- 95 A5, R121. -/
theorem test_or_into_vf :
    after (boot 0x8F11 |>.setV 15 0x0F |>.setV 1 0xF0) (fun t => (t.getV 15)) = some (0xFF) := by decide

/-- 95 A2, R122. -/
theorem test_and :
    after (boot 0x8122 |>.setV 1 0xCC |>.setV 2 0xAA) (fun t => (t.getV 1)) = some (0x88) := by decide

/-- 95 A3, R123. -/
theorem test_xor :
    after (boot 0x8123 |>.setV 1 0xCC |>.setV 2 0xAA) (fun t => (t.getV 1)) = some (0x66) := by decide

/-- 95 A6, R124. -/
theorem test_add_vb_wraps_without_flag :
    after (boot 0x7505 |>.setV 5 0xFE |>.setV 15 7) (fun t => (t.getV 5, t.getV 15)) = some (0x03, 7) := by decide

/-- 95 S1, R125. -/
theorem test_add_vv_source_example :
    after (boot 0x8014 |>.setV 0 200 |>.setV 1 100) (fun t => (t.getV 0, t.getV 15)) = some (44, 1) := by decide

/-- 95 A8, R125. -/
theorem test_add_vv_255_is_no_carry :
    after (boot 0x8014 |>.setV 0 0xF0 |>.setV 1 0x0F |>.setV 15 1) (fun t => (t.getV 0, t.getV 15)) = some (0xFF, 0) := by decide

/-- 95 A16, R126. -/
theorem test_add_i_flags_at_256 :
    after (boot 0xF21E |>.setI 0xFA |>.setV 2 6) (fun t => (t.I, t.getV 15)) = some (0x100, 1) := by decide

/-- 95 A20, R131. -/
theorem test_add_i_vf_adds_the_new_flag :
    after (boot 0xFF1E |>.setI 0x100 |>.setV 15 5) (fun t => (t.I, t.getV 15)) = some (0x101, 1) := by decide

/-- 95 S2, R127. -/
theorem test_sub_source_example_borrow :
    after (boot 0x8015 |>.setV 0 3 |>.setV 1 10) (fun t => (t.getV 0, t.getV 15)) = some (249, 0) := by decide

/-- 95 A24, R131. -/
theorem test_sub_into_vf_reads_the_new_flag :
    after (boot 0x8F15 |>.setV 15 10 |>.setV 1 3) (fun t => (t.getV 15)) = some (0xFE) := by decide

/-- 95 A28, R128. -/
theorem test_subn :
    after (boot 0x8017 |>.setV 0 3 |>.setV 1 10) (fun t => (t.getV 0, t.getV 15)) = some (7, 1) := by decide

/-- 95 A32, R131. -/
theorem test_subn_from_vf_reads_the_new_flag :
    after (boot 0x80F7 |>.setV 0 3 |>.setV 15 10) (fun t => (t.getV 0, t.getV 15)) = some (0xFE, 1) := by decide

/-- 95 A33, R129. -/
theorem test_shr_ignores_y :
    after (boot 0x8016 |>.setV 0 0x80 |>.setV 1 0xFF) (fun t => (t.getV 0, t.getV 15, t.getV 1)) = some (0x40, 0, 0xFF) := by decide

/-- 95 A37, R131. -/
theorem test_shr_vf :
    after (boot 0x8F06 |>.setV 15 3) (fun t => (t.getV 15)) = some (0) := by decide

/-- 95 S12, R130. -/
theorem test_shl :
    after (boot 0x800E |>.setV 0 0xC8) (fun t => (t.getV 0, t.getV 15)) = some (0x90, 1) := by decide

/-- 95 A41, R131. -/
theorem test_shl_vf :
    after (boot 0x8F0E |>.setV 15 0x81) (fun t => (t.getV 15)) = some (2) := by decide

/-- 95 L1, R141. -/
theorem test_ld_vb :
    after (boot 0x6AC8) (fun t => (t.getV 10)) = some (0xC8) := by decide

/-- 95 L3, R142. -/
theorem test_ld_vv :
    after (boot 0x8120 |>.setV 2 0x55) (fun t => (t.getV 1, t.getV 2)) = some (0x55, 0x55) := by decide

/-- 95 L4, R143. -/
theorem test_ld_i :
    after (boot 0xA2F0) (fun t => (t.I)) = some (0x2F0) := by decide

/-- 95 L6, R147. -/
theorem test_ld_f_has_no_nibble_mask :
    after (boot 0xF329 |>.setV 3 0xFF) (fun t => (t.I)) = some (0x4FB) := by decide

/-- 95 L5, R147. -/
theorem test_ld_f :
    after (boot 0xF329 |>.setV 3 0x0A) (fun t => (t.I)) = some (0x32) := by decide

/-- 95 S12, R144. -/
theorem test_ld_b_never_stores_the_tens_digit :
    after (boot 0xF033 |>.setI 0x300 |>.setV 0 234) (fun t => (t.mem.readBytes 0x300 4)) = some ([2, 2, 4, 0]) := by decide

/-- 95 L10, R144, R187. -/
theorem test_ld_b_past_the_end_stores_nothing :
    after (boot 0xF033 |>.setI 4094 |>.setV 0 255) (fun t => (t.mem.readBytes 4094 2, t.pc, t.faultCode, t.faultInfo)) = some ([0, 0], 0x200, 3, { value := some 4096, pc0 := 0x200 }) := by decide

/-- 95 L12, R145. -/
theorem test_ld_mv_stores_x_registers :
    after (boot 0xF255 |>.setI 0x400 |>.setV 0 0x11 |>.setV 1 0x22 |>.setV 2 0x33) (fun t => (t.mem.readBytes 0x400 3, t.I)) = some ([0x11, 0x22, 0], 0x400) := by decide

/-- 95 L13, R145. -/
theorem test_ld_mv_of_no_register_cannot_fault :
    after (boot 0xF055 |>.setI 0xFFFF |>.setV 0 0x11) (fun t => (t.status, t.pc)) = some (.running, 0x202) := by decide

/-- 95 L17, R146. -/
theorem test_ld_vm_loads_x_registers :
    after (setBytes 0x300 [2, 2, 4] (boot 0xF265 |>.setI 0x300 |>.setV 2 0x77)) (fun t => (t.getV 0, t.getV 1, t.getV 2)) = some (2, 2, 0x77) := by decide

/-- 95 L19, R146. -/
theorem test_ld_vm_past_the_end_loads_nothing :
    after (setBytes 4094 [1, 2] (boot 0xF365 |>.setI 4094 |>.setV 0 9)) (fun t => (t.getV 0, t.faultInfo)) = some (9, { value := some 4096, pc0 := 0x200 }) := by decide

/-- 95 K1, R161. -/
theorem test_ld_vk_takes_the_highest_key :
    after (press [3, 9] (boot 0xF50A)) (fun t => (t.getV 5, t.pc)) = some (9, 0x202) := by decide

/-- 95 K2, R161, R95. -/
theorem test_ld_vk_waits_and_decays :
    after (boot 0xF50A |>.setV 5 0x42 |>.setDT 3 |>.setST 1) (fun t => (t.getV 5, t.pc, t.DT, t.ST)) = some (0x42, 0x200, 2, 0) := by decide

/-- 95 K5, R162. -/
theorem test_ld_vdt_reads_before_the_decay :
    after (boot 0xF207 |>.setDT 5) (fun t => (t.getV 2, t.DT)) = some (5, 4) := by decide

/-- 95 S7, R163. -/
theorem test_ld_dtv_decays_at_once :
    after (boot 0xF215 |>.setV 2 5) (fun t => (t.DT)) = some (4) := by decide

/-- 95 K10, R164. -/
theorem test_ld_stv_decays_at_once :
    after (boot 0xF218 |>.setV 2 3 |>.setDT 2) (fun t => (t.ST, t.DT)) = some (2, 1) := by decide

/-- 95 F13, R171. -/
theorem test_cls :
    after (boot 0x00E0 |>.setFB (((Screen.clear.flipCell 0).flipCell 5).flipCell 2047) |>.setV 15 1) (fun t => (litCells t.FB, t.getV 15)) = some ([], 1) := by decide

/-- 95 F1, R172. -/
theorem test_drw :
    after (setBytes 0x300 [0x81] (boot 0xD011 |>.setI 0x300 |>.setV 0 10 |>.setV 1 5)) (fun t => (litCells t.FB, t.getV 15)) = some ([330, 337], 0) := by decide

/-- 95 F6, R174. -/
theorem test_drw_clamps_at_the_last_cell :
    after (setBytes 0x300 [0xFF, 0x81] (boot 0xD012 |>.setI 0x300 |>.setV 0 62 |>.setV 1 31)) (fun t => (t.FB.cell 2046, t.FB.cell 2047, t.FB.cell 2045, t.getV 15)) = some (true, true, false, 1) := by decide

/-- 95 X2, R91. -/
theorem test_fetch_across_the_end_faults :
    after ({ State.reset with pc := 4095, mem := State.reset.mem.write 4095 0x12 }) (fun t => (t.pc, t.faultCode, t.faultInfo)) = some (4095, 3, { value := some 4096, pc0 := 4095 }) := by decide

/-- 95 X4, R55. -/
theorem test_fetch_at_an_odd_address :
    after ({ State.reset with pc := 0x201 }.withFetchWord 16 0x6A05) (fun t => (t.getV 10, t.pc)) = some (5, 0x203) := by decide

/-- 95 X5, R213. -/
theorem test_step_after_reset_without_load_faults :
    after (State.reset) (fun t => (t.pc, t.faultCode, t.faultInfo)) = some (0x200, 1, { value := some 0, pc0 := 0x200 }) := by decide

/-- 95 X10, R95. -/
theorem test_timers_decay_together :
    after (boot 0x7000 |>.setDT 1 |>.setST 200) (fun t => (t.DT, t.ST)) = some (0, 199) := by decide

/-! ### The host -/

/-- 95 X7, R188: a faulted core returns the same error and changes nothing. -/
theorem test_faulted_core_stays :
    (hostStep { State.reset with status := .faulted, faultCode := 2, DT := 3 }).2 =
      .err 2 State.reset.faultInfo := by decide

/-- 95 S10, R212. -/
theorem test_load :
    (nextState (load [0x12, 0x34] State.reset)).map (fun t => (t.mem.readBytes 510 5, t.mem.readBytes 75 6, t.pc)) =
      some ([0, 0, 0x12, 0x34, 0], [0xF0, 0x80, 0xF0, 0x80, 0x80, 0], 0x200) := by decide +kernel

/-- 95 X9, R188: keys can be set on a faulted core. -/
theorem test_key_on_faulted_core :
    (nextState (setKeyPressed 4 (raise .stackUnderflow State.reset))).map (fun t => (t.K[4], t.K[5], t.status)) =
      some (true, false, .faulted) := by decide

/-! ### Witnesses: a state and operands that meet the hypotheses of each statement, clause by clause at its bounds -/

/-- A fetched LD_VB. -/
theorem witness_Fetches : Fetches (boot 0x6AC8) (.ldVB 10 0xC8) := ⟨rfl, by decide, rfl⟩

theorem witness_LoadWritesFontAndRomOnly :
    (List.replicate 3584 (0 : Byte)).length ≤ 3584 ∧ 3584 < (List.replicate 3585 (0 : Byte)).length ∧
    (79 < 80 ∧ 0 < [(0x12 : Byte)].length ∧ (80 ≤ 80 ∧ 80 < 512) ∧ 512 + [(0x12 : Byte)].length ≤ 513) :=
  ⟨(List.length_replicate ..).le, by rw [List.length_replicate]; decide, by decide⟩

theorem witness_KeypadOperationsSetOneOrClearAll : (15 : Nat) ≤ 15 ∧ (15 : Nat) < 16 := by decide

theorem witness_DecodingUndoesEncoding : Instr.WellFormed (.drw 15 15 15) = true := by decide

theorem witness_EncodingUndoesDecoding : decodeWord 0xDFFF = .ok (.drw 15 15 15) := rfl

theorem witness_StepRunsTheDecodedInstruction : Fetches (boot 0xFF65) (.ldVM 15) := ⟨rfl, by decide, rfl⟩

/-- A step that commits, one that takes a fault, and the four timer clauses. -/
theorem witness_TimersDecayOnceAfterEveryCommittedStep :
    (Fetches (boot 0x6AC8) (.ldVB 10 0xC8) ∧ ∃ t, exec (.ldVB 10 0xC8) (boot 0x6AC8) = .next t ∧ t.status = .running) ∧
    (Fetches (boot 0x00EE) .ret ∧ ∃ t, exec .ret (boot 0x00EE) = .next t ∧ t.status = .faulted) ∧
    (Fetches (boot 0xF215) (.ldDTV 2) ∧ ∃ t, exec (.ldDTV 2) (boot 0xF215) = .next t ∧ t.status = .running) ∧
    (Fetches (boot 0xF218) (.ldSTV 2) ∧ ∃ t, exec (.ldSTV 2) (boot 0xF218) = .next t ∧ t.status = .running) ∧
    (Fetches (boot 0xF207) (.ldVDT 2) ∧ ∃ t, exec (.ldVDT 2) (boot 0xF207) = .next t ∧ t.status = .running) ∧
    (Fetches (boot 0xF20A) (.ldVK 2) ∧ ∃ t, exec (.ldVK 2) (boot 0xF20A) = .next t ∧ t.status = .running) :=
  ⟨⟨witness_Fetches, _, rfl, rfl⟩, ⟨⟨rfl, by decide, rfl⟩, _, rfl, rfl⟩, ⟨⟨rfl, by decide, rfl⟩, _, rfl, rfl⟩,
   ⟨⟨rfl, by decide, rfl⟩, _, rfl, rfl⟩, ⟨⟨rfl, by decide, rfl⟩, _, rfl, rfl⟩, ⟨⟨rfl, by decide, rfl⟩, _, rfl, rfl⟩⟩

theorem witness_FetchOutOfTheStoreFaults :
    (State.reset.setPc 4095).status = .running ∧ 4094 < (State.reset.setPc 4095).pc.toNat ∧
    (State.reset.setPc 4096).status = .running ∧ 4095 < (State.reset.setPc 4096).pc.toNat := by decide

/-- The reset state, whose memory holds the word 0. -/
theorem witness_UnrecognizedWordFaults :
    State.reset.status = .running ∧ State.reset.pc.toNat ≤ 4094 ∧
    ∀ i, decodeWord (State.reset.mem.read State.reset.pc.toNat ++ State.reset.mem.read (State.reset.pc.toNat + 1)) ≠
      .ok i := by
  refine ⟨rfl, by decide, fun i h => ?_⟩
  rw [show decodeWord (State.reset.mem.read State.reset.pc.toNat ++ State.reset.mem.read (State.reset.pc.toNat + 1)) =
    .error (.unrecognized 0) from rfl] at h
  cases h

theorem witness_FaultedCoreOnlyRepeatsItsError : (raise .stackUnderflow State.reset).status = .faulted := rfl

theorem witness_StepCommitsOrChangesOnlyTheFaultRecord :
    (∃ t, step (boot 0x6AC8) = .next t ∧ t.status = .running) ∧
    (∃ t, step (boot 0x00EE) = .next t ∧ t.status = .faulted) := ⟨⟨_, rfl, rfl⟩, ⟨_, rfl, rfl⟩⟩

theorem witness_RunEndingRunningNeverFaulted :
    ∃ t : State, Sys2Proof.core.run 1 (boot 0x1200) = .next t ∧ t.status = .running := by
  have hstep : Sys2Proof.core.step (boot 0x1200) = .next (endStep ((boot 0x1200).setPc 0x200)) := rfl
  exact ⟨endStep ((boot 0x1200).setPc 0x200), by simp only [Host.Core.run, hstep], rfl⟩

/-- A state that meets the invariant and has a word to run and a non-empty stack. -/
theorem witness_EveryStepKeepsTheMachineBounds :
    (boot 0x00EE |>.setStack [0x20A]).Inv ∧ ∃ t, step (boot 0x00EE |>.setStack [0x20A]) = .next t := by
  refine ⟨⟨?_, by decide, fun a ha => by rw [List.mem_singleton.mp ha]; decide, ?_, fun h => by cases h⟩, _, rfl⟩
  · exact Memory.wf_writeBytes _ _ _ Memory.wf_nil (by decide)
  · intro d hd
    cases hd
    decide

theorem witness_HostOperationsKeepTheMachineBounds :
    (boot 0x00EE |>.setStack [0x20A]).Inv ∧
    (∃ t, load [0x12] (boot 0x00EE |>.setStack [0x20A]) = .next t) ∧
    (∃ t, setKeyPressed 15 (boot 0x00EE |>.setStack [0x20A]) = .next t) :=
  ⟨witness_EveryStepKeepsTheMachineBounds.1, ⟨_, rfl⟩, ⟨_, rfl⟩⟩

theorem witness_NoStepWritesKeypadOrParameters : ∃ t, step (press [3] (boot 0xF50A)) = .next t := ⟨_, rfl⟩

/-- One instruction for each clause that changes what the clause is about. -/
theorem witness_SpecialStateHasOnlyItsNamedWriters :
    (∃ t, exec (.ldI 5) State.reset = .next t ∧ t.I ≠ State.reset.I) ∧
    (∃ t, exec (.ldDTV 2) (State.reset.setV 2 5) = .next t ∧ t.DT ≠ (State.reset.setV 2 5).DT) ∧
    (∃ t, exec (.ldSTV 2) (State.reset.setV 2 5) = .next t ∧ t.ST ≠ (State.reset.setV 2 5).ST) ∧
    (∃ t, exec (.call 5) State.reset = .next t ∧ t.stack ≠ State.reset.stack) ∧
    (∃ t, exec .cls (State.reset.setFB (Screen.clear.flipCell 5)) = .next t ∧
      ∃ c, t.FB.cell c ≠ (State.reset.setFB (Screen.clear.flipCell 5)).FB.cell c) ∧
    (∃ t, exec (.ldB 2) (State.reset.setV 2 5) = .next t ∧
      ∃ a, t.mem.read a ≠ (State.reset.setV 2 5).mem.read a) :=
  ⟨⟨_, rfl, by decide⟩, ⟨_, rfl, by decide⟩, ⟨_, rfl, by decide⟩, ⟨_, rfl, by decide⟩, ⟨_, rfl, 5, by decide⟩,
   ⟨_, rfl, 2, by decide⟩⟩

theorem witness_FlagRegisterHasOnlyItsNamedWriters :
    Instr.WellFormed (.sub 0 1) = true ∧
    ∃ t, exec (.sub 0 1) (State.reset.setV 0 5) = .next t ∧ t.getV VF ≠ (State.reset.setV 0 5).getV VF :=
  ⟨rfl, _, rfl, by decide⟩

theorem witness_OnlyRndReadsTheDraw :
    (∀ x kk, (Instr.ldVK 2) ≠ .rnd x kk) ∧ ∃ t, exec (.ldVK 2) State.reset = .next t :=
  ⟨fun _ _ h => (by cases h), _, rfl⟩

theorem witness_SoundTimerInfluencesNothingElse : ∃ t, exec (.ldSTV 2) State.reset = .next t := ⟨_, rfl⟩

/-- Keys 0 and 15 are named, and 16 is out of range. -/
theorem witness_KeySkipsTestTheKeyOrFault :
    (State.reset.getV 4).toNat = (0 : Fin 16).val ∧ ((State.reset.setV 4 15).getV 4).toNat = (15 : Fin 16).val ∧
    15 < ((State.reset.setV 4 16).getV 4).toNat := by decide

theorem witness_SelfJumpChangesOnlyTheTimers :
    Fetches (boot 0x1200) (.jmp 0x200) ∧ BitVec.setWidth 16 (0x200 : Addr12) = (boot 0x1200).pc :=
  ⟨⟨rfl, by decide, rfl⟩, by decide⟩

/-- A stack one below its depth, a full one, and an unbounded one. -/
theorem witness_CallPushesTheReturnAddressOrFaults :
    (∀ d, (State.reset.setStack (List.replicate 15 2)).cfg.stackDepth = some d →
      (State.reset.setStack (List.replicate 15 2)).stack.length < d) ∧
    ((State.reset.setStack (List.replicate 16 2)).cfg.stackDepth = some 16 ∧
      (State.reset.setStack (List.replicate 16 2)).stack.length = 16) ∧
    (∀ d, ({ stackDepth := none, font := defaultFont } : Config).stackDepth = some d → State.reset.stack.length < d) :=
  ⟨fun d h => by cases h; decide, by decide, fun d h => by cases h⟩

theorem witness_ReturnPopsTheTopOrFaults :
    (State.reset.setStack [0x456, 0x20A]).stack = 0x456 :: [0x20A] ∧ State.reset.stack = [] := ⟨rfl, rfl⟩

theorem witness_FlagRegisterAsOperandFollowsTheTable :
    (0 : Reg) ≠ VF ∧ (1 : Reg) ≠ VF ∧ ((State.reset.setV 0 10).getV VF).toNat = 0 ∧
    ((State.reset.setV 0 10).getV 0).toNat = 10 ∧ ((State.reset.setV 0 10).getV 1).toNat = 0 := by decide

theorem witness_BcdStoresHundredsTwiceThenUnits :
    (State.reset.setI 4093).I.toNat + 2 ≤ 4095 ∧ 4095 < (State.reset.setI 4094).I.toNat + 2 := by decide

/-- No register with `I` anywhere, and all fifteen at the last place that holds them and one past it. -/
theorem witness_BlockStoreMovesCountRegisters :
    (0 : Nat) ≤ 15 ∧ ((0 : Nat) = 0 ∨ (State.reset.setI 0xFFFF).I.toNat + 0 - 1 ≤ 4095) ∧
    (15 : Nat) ≤ 15 ∧ (State.reset.setI 4081).I.toNat + 15 - 1 ≤ 4095 ∧
    1 ≤ (15 : Nat) ∧ 4095 < (State.reset.setI 4082).I.toNat + 15 - 1 := by decide

theorem witness_BlockLoadMovesCountRegisters :
    (1 : Nat) ≤ 15 ∧ (State.reset.setI 4095).I.toNat + 1 - 1 ≤ 4095 ∧
    1 ≤ (1 : Nat) ∧ 4095 < (State.reset.setI 4096).I.toNat + 1 - 1 := by decide

/-- No key, key 0 alone, and keys 3 and 15 together. -/
theorem witness_KeyWaitTakesTheHighestPressedKey :
    (∀ k : Fin 16, State.reset.K[k] = false) ∧
    ((press [0] State.reset).K[(0 : Fin 16)] = true ∧ ∀ j : Fin 16, 0 < j → (press [0] State.reset).K[j] = false) ∧
    ((press [3, 15] State.reset).K[(15 : Fin 16)] = true ∧
      ∀ j : Fin 16, 15 < j → (press [3, 15] State.reset).K[j] = false) := by decide

theorem witness_KeyWaitDecays : Fetches (boot 0xF50A) (.ldVK 5) := ⟨rfl, by decide, rfl⟩

theorem witness_RegisterSkipsAdvanceByFourOrTwo : (1 : BitVec 4) ≠ 0 ∧ (15 : BitVec 4) ≠ 0 := by decide

theorem witness_TimerTransfersMoveThenDecay :
    Fetches (boot 0xF207) (.ldVDT 2) ∧ Fetches (boot 0xF215) (.ldDTV 2) ∧ Fetches (boot 0xF218) (.ldSTV 2) :=
  ⟨⟨rfl, by decide, rfl⟩, ⟨rfl, by decide, rfl⟩, ⟨rfl, by decide, rfl⟩⟩

theorem witness_RandomIsTheDrawMasked : (0x0F : Byte).getLsbD 4 = false := by decide

/-- No row with `I` anywhere, fifteen rows at the last place that holds them, and one row past the end. -/
theorem witness_DrawMatchesItsClosedForm :
    (0 : Nat) ≤ 15 ∧ SpriteInStore (State.reset.setI 0xFFFF) 0 ∧
    (15 : Nat) ≤ 15 ∧ SpriteInStore (State.reset.setI 4081) 15 ∧
    1 ≤ (1 : Nat) ∧ 4095 < (State.reset.setI 4096).I.toNat + 1 - 1 :=
  ⟨by decide, .inl rfl, by decide, .inr (by decide), by decide, by decide⟩

/-- A sprite of one set bit on a clear screen, and one of none. -/
theorem witness_DrawingTwiceRestoresTheScreen :
    (0 : Reg) ≠ VF ∧ (1 : Reg) ≠ VF ∧ (1 : Nat) ≤ 15 ∧ SpriteInStore (setBytes 0x300 [0x80] (State.reset.setI 0x300)) 1 ∧
    (∃ c, 1 ≤ drawHitCount (setBytes 0x300 [0x80] (State.reset.setI 0x300)) 0 1 1 c) ∧
    (∀ c, 1 ≤ drawHitCount (setBytes 0x300 [0x80] (State.reset.setI 0x300)) 0 1 1 c →
      (setBytes 0x300 [0x80] (State.reset.setI 0x300)).FB.cell c = false) ∧
    (∀ c, drawHitCount State.reset 0 1 0 c = 0) :=
  ⟨by decide, by decide, by decide, .inr (by decide), ⟨0, by decide⟩, fun c _ => Screen.cell_clear c, fun _ => rfl⟩

end Sys2Proof.Tests
end

/-! The step cycle: the step that runs a decoded instruction (spec/40_step_cycle.md R90) and the decay of the timers at
its end (R95). -/
namespace Sys2Proof.Machine

/-! ### The step that runs an instruction -/

/-- R90: where the fetched word decodes to `i`, the step is `i`'s handler followed by the end of the step. -/
theorem step_of_fetches {s t : State} {i : Instr} (hf : Fetches s i) (he : exec i s = .next t) :
    step s = .next (finishStep t) := by
  obtain ⟨hrun, hpc, hdec⟩ := hf
  simp [step, hrun, fetch_inRange s hpc, hdec, he]

/-- R90, R95: a handler that leaves a running state is followed by the end of the step. -/
theorem step_of_fetches_running {s t : State} {i : Instr} (hf : Fetches s i) (he : exec i s = .next t)
    (ht : t.status = .running) : step s = .next (endStep t) := by
  rw [step_of_fetches hf he, finishStep_running t ht]

/-- R95, R186: nothing follows a handler that took a fault. -/
theorem step_of_fetches_faulted {s t : State} {i : Instr} (hf : Fetches s i) (he : exec i s = .next t)
    (ht : t.status = .faulted) : step s = .next t := by
  rw [step_of_fetches hf he, finishStep_faulted t ht]

/-! ### The decay -/

/-- R95: one timer falls by 1 with floor at 0, which is the truncated subtraction of natural numbers. -/
@[simp] theorem decayTimer_toNat (b : Byte) : (decayTimer b).toNat = b.toNat - 1 := by
  by_cases hb : b = 0
  · simp [decayTimer, hb]
  · have hpos : b.toNat ≠ 0 := fun h => hb (BitVec.eq_of_toNat_eq h)
    rw [decayTimer, if_neg hb]
    bv_omega

/-- The end of a step writes the two timers and the model's count of draws (log 3), and nothing else. -/
theorem endStep_eq_update (t : State) :
    endStep t = { t with DT := (endStep t).DT, ST := (endStep t).ST, draws := (endStep t).draws } := rfl

/-! ### What the instructions that name a timer leave -/

/-- R163: LD_DTV leaves `V[x]` in `DT`. -/
theorem exec_ldDTV_DT {x : Reg} {s t : State} (h : exec (.ldDTV x) s = .next t) : t.DT = s.getV x := by
  cases h; rfl

/-- R164: LD_STV leaves `V[x]` in `ST`. -/
theorem exec_ldSTV_ST {x : Reg} {s t : State} (h : exec (.ldSTV x) s = .next t) : t.ST = s.getV x := by
  cases h; rfl

/-- R162: LD_VDT leaves in `V[x]` the `DT` of the state before the step. -/
theorem exec_ldVDT_getV {x : Reg} {s t : State} (h : exec (.ldVDT x) s = .next t) : t.getV x = s.DT := by
  cases h; simp

/-- R161: LD_VK writes neither timer, whether it finds a key or waits. -/
theorem exec_ldVK_timers {x : Reg} {s t : State} (h : exec (.ldVK x) s = .next t) : t.DT = s.DT ∧ t.ST = s.ST := by
  simp only [exec, execLdVK] at h
  split at h
  · next k hkey => cases h; exact ⟨rfl, rfl⟩
  · next hwait => cases h; exact ⟨rfl, rfl⟩

/-! ### The obligation -/

/-- Settles O11: the committed step is `endStep` of what the handler left, and each clause about an instruction is what
that handler leaves in the timers, or in `V[x]`, decayed. -/
theorem timersDecayOnceAfterEveryCommittedStep : Obligations.TimersDecayOnceAfterEveryCommittedStep := by
  unfold Obligations.TimersDecayOnceAfterEveryCommittedStep
  intro s t i hf he
  refine ⟨fun ht => ⟨endStep t, step_of_fetches_running hf he ht, decayTimer_toNat t.DT, decayTimer_toNat t.ST,
    endStep_eq_update t, ?ldDTV, ?ldSTV, ?ldVDT, ?ldVK⟩, step_of_fetches_faulted hf he⟩
  case ldDTV =>
    rintro x rfl
    simp [exec_ldDTV_DT he]
  case ldSTV =>
    rintro x rfl
    simp [exec_ldSTV_ST he]
  case ldVDT =>
    rintro x rfl
    simp [exec_ldVDT_getV he]
  case ldVK =>
    rintro x rfl
    obtain ⟨hDT, hST⟩ := exec_ldVK_timers he
    simp [hDT, hST]

end Sys2Proof.Machine

/-! Decoding by the major opcode: every row of the opcode map fixes bits 15..12 (spec/30_encoding.md R74), so a word is
decoded by the rows of its own major opcode. -/
namespace Sys2Proof

/-! ### The major opcode -/

/-- The major opcode of a word, bits 15..12 (R71, R74). -/
def majorOpcode (op : Word) : BitVec 4 := op.extractLsb' 12 4

/-- The rows of the opcode map whose pattern has this major opcode. -/
def rowsOfMajor (t : BitVec 4) : List OpcodeRow := opcodeTable.filter (fun row => majorOpcode row.bits == t)

@[simp] theorem majorOpcode_wordXK (t : BitVec 4) (x : Reg) (kk : Byte) : majorOpcode (wordXK t x kk) = t := by
  rw [majorOpcode, wordXK, BitVec.extractLsb'_append_eq_of_le (by decide), BitVec.extractLsb'_append_eq_of_le (by decide),
    BitVec.extractLsb'_eq_self]

@[simp] theorem majorOpcode_wordXY (t : BitVec 4) (x y : Reg) (f : BitVec 4) : majorOpcode (wordXY t x y f) = t := by
  rw [majorOpcode, wordXY, BitVec.extractLsb'_append_eq_of_le (by decide), BitVec.extractLsb'_append_eq_of_le (by decide),
    BitVec.extractLsb'_append_eq_of_le (by decide), BitVec.extractLsb'_eq_self]

/-- Every row's mask keeps the major opcode whole. -/
theorem majorOpcode_mask : ∀ row ∈ opcodeTable, majorOpcode row.mask = 0xF#4 := by decide

/-- A word that matches a row has that row's major opcode. -/
theorem majorOpcode_bits_of_match {op : Word} {row : OpcodeRow} (hrow : row ∈ opcodeTable)
    (h : op &&& row.mask = row.bits) : majorOpcode row.bits = majorOpcode op := by
  have hmask := majorOpcode_mask row hrow
  rw [majorOpcode] at hmask
  rw [← h, majorOpcode, majorOpcode, BitVec.extractLsb'_and, hmask, and_ones4]

/-! ### Decoding among the rows of one major opcode -/

/-- The row a word matches is found among the rows of its major opcode. -/
theorem find?_opcodeTable (op : Word) :
    opcodeTable.find? (fun row => op &&& row.mask == row.bits) =
      (rowsOfMajor (majorOpcode op)).find? (fun row => op &&& row.mask == row.bits) := by
  rw [rowsOfMajor, List.find?_filter]
  refine List.find?_congr fun row hrow => ?_
  by_cases h : op &&& row.mask = row.bits
  · simp [h, majorOpcode_bits_of_match hrow h]
  · simp [h]

/-- Where a major opcode has one row, its words are decoded by that row or not at all (R75, R76). -/
theorem decodeWord_of_singleRow {op : Word} {t : BitVec 4} {row : OpcodeRow} (ht : majorOpcode op = t)
    (hrows : rowsOfMajor t = [row]) :
    decodeWord op = if op &&& row.mask = row.bits then .ok (row.build op) else .error (.unrecognized op) := by
  rw [decodeWord, find?_opcodeTable, ht, hrows]
  by_cases h : op &&& row.mask = row.bits <;> simp [h]

/-- A row for the whole of a format XK major opcode decodes all its words. -/
theorem decodeWord_wordXK {t : BitVec 4} {name : String} {build : Reg → Byte → Instr}
    (hrows : rowsOfMajor t = [⟨name, t ++ 0#4 ++ 0#8, 0xF000, fun op => build (fieldX op) (fieldKK op)⟩])
    (x : Reg) (kk : Byte) : decodeWord (wordXK t x kk) = .ok (build x kk) := by
  rw [decodeWord_of_singleRow (majorOpcode_wordXK t x kk) hrows]
  simp only [wordXK_mask, fieldX_wordXK, fieldKK_wordXK, if_true]

/-- A single row for a format XY major opcode decodes the words whose function nibble is the row's, and no others. -/
theorem decodeWord_wordXY {t g : BitVec 4} {name : String} {build : Reg → Reg → Instr}
    (hrows : rowsOfMajor t = [⟨name, t ++ 0#4 ++ 0#4 ++ g, 0xF00F, fun op => build (fieldX op) (fieldY op)⟩])
    (x y : Reg) (f : BitVec 4) :
    decodeWord (wordXY t x y f) = if f = g then .ok (build x y) else .error (.unrecognized (wordXY t x y f)) := by
  rw [decodeWord_of_singleRow (majorOpcode_wordXY t x y f) hrows]
  have hfield : t ++ 0#4 ++ 0#4 ++ f = t ++ 0#4 ++ 0#4 ++ g ↔ f = g := BitVec.append_right_inj _
  simp only [wordXY_mask, fieldX_wordXY, fieldY_wordXY, hfield]

/-! ### The words of the four register skips -/

/-- R102: `3xkk` is SE_VB. -/
theorem decodeWord_seVB (x : Reg) (kk : Byte) : decodeWord (wordXK 0x3 x kk) = .ok (.seVB x kk) :=
  decodeWord_wordXK (build := .seVB) rfl x kk

/-- R103: `4xkk` is SNE_VB. -/
theorem decodeWord_sneVB (x : Reg) (kk : Byte) : decodeWord (wordXK 0x4 x kk) = .ok (.sneVB x kk) :=
  decodeWord_wordXK (build := .sneVB) rfl x kk

/-- R104, R76: `5xyN` is SE_VV if `N` is 0, and unrecognized if not. -/
theorem decodeWord_seVV (x y : Reg) (f : BitVec 4) :
    decodeWord (wordXY 0x5 x y f) = if f = 0 then .ok (.seVV x y) else .error (.unrecognized (wordXY 0x5 x y f)) :=
  decodeWord_wordXY (build := .seVV) rfl x y f

/-- R105, R76: `9xyN` is SNE_VV if `N` is 0, and unrecognized if not. -/
theorem decodeWord_sneVV (x y : Reg) (f : BitVec 4) :
    decodeWord (wordXY 0x9 x y f) = if f = 0 then .ok (.sneVV x y) else .error (.unrecognized (wordXY 0x9 x y f)) :=
  decodeWord_wordXY (build := .sneVV) rfl x y f

end Sys2Proof

/-! The skips (spec/41_control_flow.md R101): what a skip changes, and the four that compare a register. -/
namespace Sys2Proof.Machine

/-- Writing `pc` is inside every frame. -/
theorem frame_setPc (s : State) (w : Word) : Frame {} s (s.setPc w) := by
  constructor <;> simp

/-- R101: an instruction that skips on a condition writes `pc0 + 4` or `pc0 + 2` to `pc`, and nothing else. -/
theorem exec_skip_spec {i : Instr} {s : State} {c : Bool} {P : Prop} [Decidable P]
    (he : exec i s = .next (s.skipIf c)) (hc : c = true ↔ P) :
    ∃ t, exec i s = .next t ∧ Frame {} s t ∧ t.pc = if P then s.pc + 4 else s.pc + 2 :=
  ⟨s.skipIf c, he, frame_setPc s _, by simp [hc]⟩

/-- Settles O26: each word is decoded by the one row of its major opcode, and each skip is `skipIf` on the rule's
condition. -/
theorem registerSkipsAdvanceByFourOrTwo : Obligations.RegisterSkipsAdvanceByFourOrTwo := by
  unfold Obligations.RegisterSkipsAdvanceByFourOrTwo
  intro x y kk s
  refine ⟨fun f hf => ⟨?noRowFive, ?noRowNine⟩, ⟨decodeWord_seVB x kk, ?seVB⟩, ⟨decodeWord_sneVB x kk, ?sneVB⟩,
    ⟨decodeWord_seVV x y 0, ?seVV⟩, ⟨decodeWord_sneVV x y 0, ?sneVV⟩⟩
  case noRowFive => rw [decodeWord_seVV, if_neg hf]
  case noRowNine => rw [decodeWord_sneVV, if_neg hf]
  case seVB => exact exec_skip_spec rfl beq_iff_eq
  case sneVB => exact exec_skip_spec rfl bne_iff_ne
  case seVV => exact exec_skip_spec rfl beq_iff_eq
  case sneVV => exact exec_skip_spec rfl bne_iff_ne

end Sys2Proof.Machine

/-! Decoding by a row: no word matches two rows of the opcode map (spec/30_encoding.md R75), so a row that a word matches
is the row that decodes it. -/
namespace Sys2Proof

/-! ### The rows exclude each other -/

/-- Any two rows of the opcode map ask for different bits somewhere under both their masks (R75). -/
theorem opcodeTable_pairwise_conflict :
    opcodeTable.Pairwise (fun row other => row.bits &&& other.mask ≠ other.bits &&& row.mask) := by decide

/-- A word that matches two rows gives them the same bits under both their masks. -/
theorem bits_and_mask_comm_of_match {op : Word} {row other : OpcodeRow} (h : op &&& row.mask = row.bits)
    (h' : op &&& other.mask = other.bits) : row.bits &&& other.mask = other.bits &&& row.mask := by
  rw [← h, ← h', BitVec.and_assoc, BitVec.and_assoc, BitVec.and_comm row.mask]

/-- R75: a word is decoded by the row it matches, wherever in the map that row stands. -/
theorem decodeWord_of_match {op : Word} {row : OpcodeRow} (hrow : row ∈ opcodeTable)
    (h : op &&& row.mask = row.bits) : decodeWord op = .ok (row.build op) := by
  obtain ⟨before, after, htable⟩ := List.append_of_mem hrow
  have hconflict := opcodeTable_pairwise_conflict
  rw [htable, List.pairwise_append] at hconflict
  obtain ⟨-, -, hbefore⟩ := hconflict
  have hfind : opcodeTable.find? (fun r => op &&& r.mask == r.bits) = some row := by
    refine List.find?_eq_some_iff_append.mpr ⟨by simpa using h, before, after, htable, fun r hr => ?_⟩
    have hne : op &&& r.mask ≠ r.bits := fun hr' =>
      hbefore r hr row List.mem_cons_self (bits_and_mask_comm_of_match hr' h)
    simpa using hne
  rw [decodeWord, hfind]

/-- A format XY row with a function nibble decodes the words with that nibble, whatever else its major opcode holds. -/
theorem decodeWord_wordXY_of_row {t f : BitVec 4} {name : String} {build : Reg → Reg → Instr}
    (hrow : ⟨name, t ++ 0#4 ++ 0#4 ++ f, 0xF00F, fun op => build (fieldX op) (fieldY op)⟩ ∈ opcodeTable) (x y : Reg) :
    decodeWord (wordXY t x y f) = .ok (build x y) := by
  rw [decodeWord_of_match hrow (wordXY_mask t x y f)]
  simp only [fieldX_wordXY, fieldY_wordXY]

/-! ### The words of the logical instructions and of ADD_VB -/

/-- R121: `8xy1` is OR. -/
theorem decodeWord_orVV (x y : Reg) : decodeWord (wordXY 0x8 x y 0x1) = .ok (.orVV x y) :=
  decodeWord_wordXY_of_row (build := .orVV) (List.mem_of_getElem? (i := 10) rfl) x y

/-- R122: `8xy2` is AND. -/
theorem decodeWord_andVV (x y : Reg) : decodeWord (wordXY 0x8 x y 0x2) = .ok (.andVV x y) :=
  decodeWord_wordXY_of_row (build := .andVV) (List.mem_of_getElem? (i := 11) rfl) x y

/-- R123: `8xy3` is XOR. -/
theorem decodeWord_xorVV (x y : Reg) : decodeWord (wordXY 0x8 x y 0x3) = .ok (.xorVV x y) :=
  decodeWord_wordXY_of_row (build := .xorVV) (List.mem_of_getElem? (i := 12) rfl) x y

/-- R124: `7xkk` is ADD_VB. -/
theorem decodeWord_addVB (x : Reg) (kk : Byte) : decodeWord (wordXK 0x7 x kk) = .ok (.addVB x kk) :=
  decodeWord_wordXK (build := .addVB) rfl x kk

end Sys2Proof

/-! The ALU instructions without a flag (spec/42_alu.md R121 to R124): what an instruction that only writes a register
changes, and the four whose value is a bitwise combination or an immediate sum. -/
namespace Sys2Proof.Machine

/-- Writing register `x` and `pc` is inside the frame of `x`. -/
theorem frame_setV_setPc (s : State) (x : Reg) (b : Byte) (w : Word) :
    Frame { regs := [x] } s ((s.setV x b).setPc w) := by
  constructor
  case regs =>
    intro r hr
    have hne : x ≠ r := fun h => hr (h ▸ List.mem_singleton_self x)
    rw [State.setPc_getV, State.setV_getV, if_neg hne]
  all_goals simp

/-- R94: an instruction that writes one register and goes on leaves the value there and `pc0 + 2` in `pc`, and changes
nothing else, VF only as the register it names. -/
theorem exec_writeReg_spec {i : Instr} {s : State} {x : Reg} {b : Byte} (he : exec i s = .next (s.setV x b).advance) :
    ∃ t, exec i s = .next t ∧ Frame { regs := [x] } s t ∧ t.getV x = b ∧ t.pc = s.pc + 2 :=
  ⟨(s.setV x b).advance, he, frame_setV_setPc s x b _, by simp, by simp⟩

/-- Settles O32: each word is decoded by its row among those of major opcode 8, and each handler writes the combination
into `V[x]` and goes on. -/
theorem logicalInstructionsCombineRegisters : Obligations.LogicalInstructionsCombineRegisters := by
  unfold Obligations.LogicalInstructionsCombineRegisters
  intro x y s
  exact ⟨⟨decodeWord_orVV x y, exec_writeReg_spec rfl⟩, ⟨decodeWord_andVV x y, exec_writeReg_spec rfl⟩,
    ⟨decodeWord_xorVV x y, exec_writeReg_spec rfl⟩⟩

/-- Settles O33: ADD_VB writes the 8-bit sum into `V[x]`, and an 8-bit sum is the sum of naturals modulo 256. -/
theorem addImmediateWrapsWithoutFlag : Obligations.AddImmediateWrapsWithoutFlag := by
  unfold Obligations.AddImmediateWrapsWithoutFlag
  intro x kk s
  obtain ⟨t, he, hframe, hval, hpc⟩ := exec_writeReg_spec (i := .addVB x kk) (s := s) rfl
  exact ⟨decodeWord_addVB x kk, t, he, hframe, by rw [hval, BitVec.toNat_add], hpc⟩

end Sys2Proof.Machine

/-! The words of the loads: LD_VB and LD_VV name registers, and LD_I is decoded by a row of format A
(spec/30_encoding.md R74, R75). -/
namespace Sys2Proof

/-- A format A row decodes every word of its major opcode. -/
theorem decodeWord_wordA_of_row {t : BitVec 4} {name : String} {build : Addr12 → Instr}
    (hrow : ⟨name, t ++ 0#12, 0xF000, fun op => build (fieldNNN op)⟩ ∈ opcodeTable) (nnn : Addr12) :
    decodeWord (wordA t nnn) = .ok (build nnn) := by
  rw [decodeWord_of_match hrow (wordA_mask t nnn)]
  simp only [fieldNNN_wordA]

/-- R141: `6xkk` is LD_VB. -/
theorem decodeWord_ldVB (x : Reg) (kk : Byte) : decodeWord (wordXK 0x6 x kk) = .ok (.ldVB x kk) :=
  decodeWord_wordXK (build := .ldVB) rfl x kk

/-- R142: `8xy0` is LD_VV. -/
theorem decodeWord_ldVV (x y : Reg) : decodeWord (wordXY 0x8 x y 0x0) = .ok (.ldVV x y) :=
  decodeWord_wordXY_of_row (build := .ldVV) (List.mem_of_getElem? (i := 9) rfl) x y

/-- R143: `Annn` is LD_I. -/
theorem decodeWord_ldI (nnn : Addr12) : decodeWord (wordA 0xA nnn) = .ok (.ldI nnn) :=
  decodeWord_wordA_of_row (build := .ldI) (List.mem_of_getElem? (i := 19) rfl) nnn

end Sys2Proof

/-! The loads that are plain assignments (spec/43_load_store.md R141 to R143): what an instruction that only writes `I`
changes, and the three loads. -/
namespace Sys2Proof.Machine

/-- Writing `I` and `pc` is inside the frame of `I`. -/
theorem frame_setI_setPc (s : State) (v w : Word) : Frame { index := true } s ((s.setI v).setPc w) := by
  constructor <;> simp

/-- R94: an instruction that writes `I` and goes on leaves the value there and `pc0 + 2` in `pc`, and changes nothing
else. -/
theorem exec_writeIndex_spec {i : Instr} {s : State} {v : Word} (he : exec i s = .next (s.setI v).advance) :
    ∃ t, exec i s = .next t ∧ Frame { index := true } s t ∧ t.I = v ∧ t.pc = s.pc + 2 :=
  ⟨(s.setI v).advance, he, frame_setI_setPc s v _, by simp, by simp⟩

/-- Settles O39: each word is decoded by its row, and each handler writes its operand into `V[x]` or `I` and goes on. -/
theorem loadsAssignRegisterOrIndex : Obligations.LoadsAssignRegisterOrIndex := by
  unfold Obligations.LoadsAssignRegisterOrIndex
  intro x y kk nnn s
  refine ⟨⟨decodeWord_ldVB x kk, ?ldVB⟩, ⟨decodeWord_ldVV x y, ?ldVV⟩, ⟨decodeWord_ldI nnn, ?ldI⟩⟩
  case ldVB => exact exec_writeReg_spec rfl
  case ldVV => exact exec_writeReg_spec rfl
  case ldI => exact exec_writeIndex_spec rfl

end Sys2Proof.Machine

/-! The words of format X that name a register (spec/30_encoding.md R72, R75), and LD_VK among them. -/
namespace Sys2Proof

/-- A format X row that names a register decodes every word with its major opcode and function byte. -/
theorem decodeWord_wordX_of_row {t : BitVec 4} {f : Byte} {name : String} {build : Reg → Instr}
    (hrow : ⟨name, t ++ 0#4 ++ f, 0xF0FF, fun op => build (fieldX op)⟩ ∈ opcodeTable) (x : Reg) :
    decodeWord (wordX t (regBits x) f) = .ok (build x) := by
  rw [decodeWord_of_match hrow (wordX_mask t (regBits x) f)]
  simp only [fieldX_wordX, regBits_toFin]

/-- R161: `Fx0A` is LD_VK. -/
theorem decodeWord_ldVK (x : Reg) : decodeWord (wordX 0xF (regBits x) 0x0A) = .ok (.ldVK x) :=
  decodeWord_wordX_of_row (build := .ldVK) (List.mem_of_getElem? (i := 26) rfl) x

end Sys2Proof

/-! The keypad wait (spec/44_keypad_timers_random.md R161): what the scan of the keypad finds, and what LD_VK does with
a key and with none. -/
namespace Sys2Proof.Machine

/-! ### The scan in terms of the keypad flags -/

/-- The flag of a key that exists (R28). -/
theorem State.key_of_lt (s : State) {k : Nat} (hk : k < 16) : s.key k = s.K[(⟨k, hk⟩ : Fin 16)] := by
  simp [State.key, hk]

/-- R161: with no key pressed the scan finds none. -/
theorem State.lastPressed_eq_none {s : State} (h : ∀ k : Fin 16, s.K[k] = false) : s.lastPressed = none := by
  obtain ⟨hnone, -⟩ | ⟨k, hk, -, hpressed, -⟩ := s.lastPressed_cases
  · exact hnone
  · rw [s.key_of_lt hk, h] at hpressed
    cases hpressed

/-- R161: the scan finds the key that is pressed with none above it, since neither it nor the key found is above the
other. -/
theorem State.lastPressed_eq_some {s : State} {k : Fin 16} (hk : s.K[k] = true)
    (hmax : ∀ j : Fin 16, k < j → s.K[j] = false) : s.lastPressed = some k.val := by
  have hkey : s.key k = true := (s.key_of_lt k.isLt).trans hk
  obtain ⟨-, hall⟩ | ⟨m, hm, hsome, hpressed, habove⟩ := s.lastPressed_cases
  · rw [hall k k.isLt] at hkey
    cases hkey
  · obtain hlt | rfl | hgt := lt_trichotomy m k.val
    · rw [habove k k.isLt hlt] at hkey
      cases hkey
    · exact hsome
    · rw [s.key_of_lt hm, hmax ⟨m, hm⟩ hgt] at hpressed
      cases hpressed

/-! ### The handler -/

/-- R161: with a key found, LD_VK writes its number into `V[x]` and goes on. -/
theorem exec_ldVK_of_some {x : Reg} {s : State} {k : Nat} (h : s.lastPressed = some k) :
    exec (.ldVK x) s = .next (s.setV x (BitVec.ofNat 8 k)).advance := by
  simp only [exec, execLdVK, h]

/-- R161: with no key found, LD_VK leaves `pc` at itself. -/
theorem exec_ldVK_of_none {x : Reg} {s : State} (h : s.lastPressed = none) :
    exec (.ldVK x) s = .next (s.setPc s.pc) := by
  simp only [exec, execLdVK, h]

/-- R161: LD_VK answers a next state whether it finds a key or waits, and keeps the status. -/
theorem exec_ldVK_status (x : Reg) (s : State) : ∃ t, exec (.ldVK x) s = .next t ∧ t.status = s.status := by
  cases h : s.lastPressed with
  | none => exact ⟨_, exec_ldVK_of_none h, rfl⟩
  | some k => exact ⟨_, exec_ldVK_of_some h, rfl⟩

/-! ### The step -/

/-- R95, R161: the step of LD_VK commits, and decays both timers from what they were. -/
theorem step_ldVK_timers {x : Reg} {s : State} (hf : Fetches s (.ldVK x)) :
    ∃ u, step s = .next u ∧ u.DT.toNat = s.DT.toNat - 1 ∧ u.ST.toNat = s.ST.toNat - 1 := by
  have hrunning : s.status = .running := hf.1
  obtain ⟨t, he, hstatus⟩ := exec_ldVK_status x s
  obtain ⟨hDT, hST⟩ := exec_ldVK_timers he
  exact ⟨endStep t, step_of_fetches_running hf he (hstatus.trans hrunning), by simp [hDT], by simp [hST]⟩

/-! ### The obligation -/

/-- Settles O44: `Fx0A` matches the row of LD_VK; the scan finds no key or the highest pressed one, and LD_VK writes
nothing or that key's number, which fits a byte. -/
theorem keyWaitTakesTheHighestPressedKey : Obligations.KeyWaitTakesTheHighestPressedKey := by
  unfold Obligations.KeyWaitTakesTheHighestPressedKey
  intro x s
  refine ⟨decodeWord_ldVK x, step_ldVK_timers, ?wait, ?key⟩
  case wait =>
    intro hnone
    exact ⟨s.setPc s.pc, exec_ldVK_of_none (State.lastPressed_eq_none hnone), frame_setPc s s.pc, State.setPc_pc s s.pc⟩
  case key =>
    intro k hk hmax
    obtain ⟨t, he, hframe, hval, hpc⟩ := exec_writeReg_spec (exec_ldVK_of_some (State.lastPressed_eq_some hk hmax))
    have hfits : k.val < 2 ^ 8 := by omega
    exact ⟨t, he, hframe, by rw [hval, BitVec.toNat_ofNat, Nat.mod_eq_of_lt hfits], hpc⟩

end Sys2Proof.Machine

/-! The framebuffer (spec/45_framebuffer.md R171): the word of CLS, and what CLS changes. -/
namespace Sys2Proof

/-- R171: `00E0` is CLS, the first row of the map, whose mask fixes every bit. -/
theorem decodeWord_cls : decodeWord 0x00E0 = .ok .cls :=
  decodeWord_of_match (List.mem_of_getElem? (i := 0) rfl) rfl

end Sys2Proof

namespace Sys2Proof.Machine

/-- Writing the framebuffer and `pc` is inside the frame of the screen. -/
theorem frame_setFB_setPc (s : State) (fb : Screen) (w : Word) : Frame { screen := true } s ((s.setFB fb).setPc w) := by
  constructor <;> simp

/-- R171: CLS puts the cleared screen in place and goes on. -/
theorem exec_cls (s : State) : exec .cls s = .next (s.setFB Screen.clear).advance := rfl

/-- Settles O47: `00E0` matches the row of CLS, whose handler writes only the screen and `pc`, and every cell of the
screen it writes is 0. -/
theorem clearScreenZeroesEveryCell : Obligations.ClearScreenZeroesEveryCell := by
  unfold Obligations.ClearScreenZeroesEveryCell
  refine ⟨decodeWord_cls, fun s => ?_⟩
  refine ⟨(s.setFB Screen.clear).advance, exec_cls s, frame_setFB_setPc s _ _, ?cells, ?counter⟩
  case cells =>
    intro c _
    rw [State.advance_eq, State.setPc_FB, State.setFB_FB, Screen.cell_clear]
  case counter => rw [State.advance_eq, State.setPc_pc, State.setFB_pc]

end Sys2Proof.Machine

/-! The words of the remaining instructions, each decoded by its row of the opcode map (spec/30_encoding.md R74, R75),
and with them the round trip from an instruction through its word. -/
namespace Sys2Proof

/-! ### The words of the remaining instructions -/

/-- R111: `00EE` is RET. -/
theorem decodeWord_ret : decodeWord 0x00EE = .ok .ret :=
  decodeWord_of_match (List.mem_of_getElem? (i := 1) rfl) rfl

/-- R108: `1nnn` is JMP. -/
theorem decodeWord_jmp (nnn : Addr12) : decodeWord (wordA 0x1 nnn) = .ok (.jmp nnn) :=
  decodeWord_wordA_of_row (build := .jmp) (List.mem_of_getElem? (i := 2) rfl) nnn

/-- R110: `2nnn` is CALL. -/
theorem decodeWord_call (nnn : Addr12) : decodeWord (wordA 0x2 nnn) = .ok (.call nnn) :=
  decodeWord_wordA_of_row (build := .call) (List.mem_of_getElem? (i := 3) rfl) nnn

/-- R125: `8xy4` is ADD_VV. -/
theorem decodeWord_addVV (x y : Reg) : decodeWord (wordXY 0x8 x y 0x4) = .ok (.addVV x y) :=
  decodeWord_wordXY_of_row (build := .addVV) (List.mem_of_getElem? (i := 13) rfl) x y

/-- R127: `8xy5` is SUB. -/
theorem decodeWord_sub (x y : Reg) : decodeWord (wordXY 0x8 x y 0x5) = .ok (.sub x y) :=
  decodeWord_wordXY_of_row (build := .sub) (List.mem_of_getElem? (i := 14) rfl) x y

/-- R129: `8xy6` is SHR, whatever `y` is. -/
theorem decodeWord_shr (x y : Reg) : decodeWord (wordXY 0x8 x y 0x6) = .ok (.shr x y) :=
  decodeWord_wordXY_of_row (build := .shr) (List.mem_of_getElem? (i := 15) rfl) x y

/-- R128: `8xy7` is SUBN. -/
theorem decodeWord_subn (x y : Reg) : decodeWord (wordXY 0x8 x y 0x7) = .ok (.subn x y) :=
  decodeWord_wordXY_of_row (build := .subn) (List.mem_of_getElem? (i := 16) rfl) x y

/-- R130: `8xyE` is SHL, whatever `y` is. -/
theorem decodeWord_shl (x y : Reg) : decodeWord (wordXY 0x8 x y 0xE) = .ok (.shl x y) :=
  decodeWord_wordXY_of_row (build := .shl) (List.mem_of_getElem? (i := 17) rfl) x y

/-- R109: `Bnnn` is JMP_VA. -/
theorem decodeWord_jmpVA (nnn : Addr12) : decodeWord (wordA 0xB nnn) = .ok (.jmpVA nnn) :=
  decodeWord_wordA_of_row (build := .jmpVA) (List.mem_of_getElem? (i := 20) rfl) nnn

/-- R165: `Cxkk` is RND. -/
theorem decodeWord_rnd (x : Reg) (kk : Byte) : decodeWord (wordXK 0xC x kk) = .ok (.rnd x kk) :=
  decodeWord_wordXK (build := .rnd) rfl x kk

/-- R71, R172: `Dxyn` is DRW of the count its last nibble holds. -/
theorem decodeWord_drw (x y : Reg) (n : Nat) (hn : n ≤ 15) :
    decodeWord (wordXY 0xD x y (countBits n)) = .ok (.drw x y n) := by
  rw [decodeWord_of_match (List.mem_of_getElem? (i := 22) rfl) (wordXYN_mask 0xD x y (countBits n))]
  simp only [fieldX_wordXY, fieldY_wordXY, fieldN_wordXY, countBits_toNat n hn]

/-- R106: `Ex9E` is SKP. -/
theorem decodeWord_skp (x : Reg) : decodeWord (wordX 0xE (regBits x) 0x9E) = .ok (.skp x) :=
  decodeWord_wordX_of_row (build := .skp) (List.mem_of_getElem? (i := 23) rfl) x

/-- R107: `ExA1` is SKNP. -/
theorem decodeWord_sknp (x : Reg) : decodeWord (wordX 0xE (regBits x) 0xA1) = .ok (.sknp x) :=
  decodeWord_wordX_of_row (build := .sknp) (List.mem_of_getElem? (i := 24) rfl) x

/-- R162: `Fx07` is LD_VDT. -/
theorem decodeWord_ldVDT (x : Reg) : decodeWord (wordX 0xF (regBits x) 0x07) = .ok (.ldVDT x) :=
  decodeWord_wordX_of_row (build := .ldVDT) (List.mem_of_getElem? (i := 25) rfl) x

/-- R163: `Fx15` is LD_DTV. -/
theorem decodeWord_ldDTV (x : Reg) : decodeWord (wordX 0xF (regBits x) 0x15) = .ok (.ldDTV x) :=
  decodeWord_wordX_of_row (build := .ldDTV) (List.mem_of_getElem? (i := 27) rfl) x

/-- R164: `Fx18` is LD_STV. -/
theorem decodeWord_ldSTV (x : Reg) : decodeWord (wordX 0xF (regBits x) 0x18) = .ok (.ldSTV x) :=
  decodeWord_wordX_of_row (build := .ldSTV) (List.mem_of_getElem? (i := 28) rfl) x

/-- R126: `Fx1E` is ADD_I. -/
theorem decodeWord_addI (x : Reg) : decodeWord (wordX 0xF (regBits x) 0x1E) = .ok (.addI x) :=
  decodeWord_wordX_of_row (build := .addI) (List.mem_of_getElem? (i := 29) rfl) x

/-- R147: `Fx29` is LD_F. -/
theorem decodeWord_ldF (x : Reg) : decodeWord (wordX 0xF (regBits x) 0x29) = .ok (.ldF x) :=
  decodeWord_wordX_of_row (build := .ldF) (List.mem_of_getElem? (i := 30) rfl) x

/-- R144: `Fx33` is LD_B. -/
theorem decodeWord_ldB (x : Reg) : decodeWord (wordX 0xF (regBits x) 0x33) = .ok (.ldB x) :=
  decodeWord_wordX_of_row (build := .ldB) (List.mem_of_getElem? (i := 31) rfl) x

/-- A format X row that names a count decodes the word of every count that fits its field (R71). -/
theorem decodeWord_wordX_count_of_row {t : BitVec 4} {f : Byte} {name : String} {build : Nat → Instr}
    (hrow : ⟨name, t ++ 0#4 ++ f, 0xF0FF, fun op => build (fieldXCount op)⟩ ∈ opcodeTable) (n : Nat) (hn : n ≤ 15) :
    decodeWord (wordX t (countBits n) f) = .ok (build n) := by
  rw [decodeWord_of_match hrow (wordX_mask t (countBits n) f)]
  simp only [fieldXCount_wordX, countBits_toNat n hn]

/-- R145: `Fx55` is LD_MV of the count `x`. -/
theorem decodeWord_ldMV (n : Nat) (hn : n ≤ 15) : decodeWord (wordX 0xF (countBits n) 0x55) = .ok (.ldMV n) :=
  decodeWord_wordX_count_of_row (build := .ldMV) (List.mem_of_getElem? (i := 32) rfl) n hn

/-- R146: `Fx65` is LD_VM of the count `x`. -/
theorem decodeWord_ldVM (n : Nat) (hn : n ≤ 15) : decodeWord (wordX 0xF (countBits n) 0x65) = .ok (.ldVM n) :=
  decodeWord_wordX_count_of_row (build := .ldVM) (List.mem_of_getElem? (i := 33) rfl) n hn

/-! ### The round trip from the instruction -/

/-- Settles O6: the word of each instruction is decoded by that instruction's row; the well-formedness of a count is
what lets its four bits hold it. -/
theorem decodingUndoesEncoding : Obligations.DecodingUndoesEncoding := by
  unfold Obligations.DecodingUndoesEncoding
  intro i hwf
  cases i with
  | cls => exact decodeWord_cls
  | ret => exact decodeWord_ret
  | jmp nnn => exact decodeWord_jmp nnn
  | call nnn => exact decodeWord_call nnn
  | seVB x kk => exact decodeWord_seVB x kk
  | sneVB x kk => exact decodeWord_sneVB x kk
  | seVV x y => exact decodeWord_seVV x y 0
  | ldVB x kk => exact decodeWord_ldVB x kk
  | addVB x kk => exact decodeWord_addVB x kk
  | ldVV x y => exact decodeWord_ldVV x y
  | orVV x y => exact decodeWord_orVV x y
  | andVV x y => exact decodeWord_andVV x y
  | xorVV x y => exact decodeWord_xorVV x y
  | addVV x y => exact decodeWord_addVV x y
  | sub x y => exact decodeWord_sub x y
  | shr x y => exact decodeWord_shr x y
  | subn x y => exact decodeWord_subn x y
  | shl x y => exact decodeWord_shl x y
  | sneVV x y => exact decodeWord_sneVV x y 0
  | ldI nnn => exact decodeWord_ldI nnn
  | jmpVA nnn => exact decodeWord_jmpVA nnn
  | rnd x kk => exact decodeWord_rnd x kk
  | drw x y n => exact decodeWord_drw x y n (of_decide_eq_true hwf)
  | skp x => exact decodeWord_skp x
  | sknp x => exact decodeWord_sknp x
  | ldVDT x => exact decodeWord_ldVDT x
  | ldVK x => exact decodeWord_ldVK x
  | ldDTV x => exact decodeWord_ldDTV x
  | ldSTV x => exact decodeWord_ldSTV x
  | addI x => exact decodeWord_addI x
  | ldF x => exact decodeWord_ldF x
  | ldB x => exact decodeWord_ldB x
  | ldMV n => exact decodeWord_ldMV n (of_decide_eq_true hwf)
  | ldVM n => exact decodeWord_ldVM n (of_decide_eq_true hwf)

end Sys2Proof

/-! What a word that matches a row is: the row's fixed bits with the word's own operand fields (spec/30_encoding.md R71,
R72, R74), and with it the round trip from a word through its instruction. -/
namespace Sys2Proof

/-! ### A word is its fields -/

/-- The register fields and the count fields hold their own bits of the word (R71). -/
@[simp] theorem regBits_fieldX (op : Word) : regBits (fieldX op) = op.extractLsb' 8 4 := rfl

@[simp] theorem regBits_fieldY (op : Word) : regBits (fieldY op) = op.extractLsb' 4 4 := rfl

@[simp] theorem countBits_fieldN (op : Word) : countBits (fieldN op) = op.extractLsb' 0 4 := by
  rw [countBits, fieldN, BitVec.ofNat_toNat, BitVec.setWidth_eq]

@[simp] theorem countBits_fieldXCount (op : Word) : countBits (fieldXCount op) = op.extractLsb' 8 4 := by
  rw [countBits, fieldXCount, BitVec.ofNat_toNat, BitVec.setWidth_eq]

/-- Format A: every word is its major opcode and its 12-bit address field (R71). -/
theorem wordA_fields (op : Word) : wordA (majorOpcode op) (fieldNNN op) = op :=
  BitVec.extractLsb'_append_extractLsb'

/-- Format XK: every word is its major opcode, its register field and its low byte (R71). -/
theorem wordXK_fields (op : Word) : wordXK (majorOpcode op) (fieldX op) (fieldKK op) = op := by
  rw [wordXK, majorOpcode, regBits_fieldX, fieldKK, BitVec.extractLsb'_append_extractLsb'_eq_extractLsb' (by rfl)]
  exact BitVec.extractLsb'_append_extractLsb'

/-- Format XY: every word is its four nibbles (R71). -/
theorem wordXY_fields (op : Word) :
    wordXY (majorOpcode op) (fieldX op) (fieldY op) (countBits (fieldN op)) = op := by
  rw [wordXY, majorOpcode, regBits_fieldX, regBits_fieldY, countBits_fieldN,
    BitVec.extractLsb'_append_extractLsb'_eq_extractLsb' (by rfl),
    BitVec.extractLsb'_append_extractLsb'_eq_extractLsb' (by rfl)]
  exact BitVec.extractLsb'_append_extractLsb'

/-- Format X: every word is its major opcode, its `x` field and its low byte (R71). -/
theorem wordX_fields (op : Word) : wordX (majorOpcode op) (op.extractLsb' 8 4) (fieldKK op) = op :=
  wordXK_fields op

/-! ### The fields a row fixes -/

/-- A row of format A or XK fixes the major opcode, and nothing else. -/
theorem and_F000_eq_iff (op : Word) (t : BitVec 4) : op &&& 0xF000 = t ++ 0#12 ↔ majorOpcode op = t := by
  conv_lhs => rw [← wordA_fields op, wordA_mask]
  exact BitVec.append_left_inj 0#12

/-- Joined fields are equal exactly when each of them is. -/
theorem append_eq_append_iff {v w : Nat} {a c : BitVec v} {b d : BitVec w} : a ++ b = c ++ d ↔ a = c ∧ b = d := by
  refine ⟨fun h => ?_, fun ⟨hhi, hlo⟩ => by rw [hhi, hlo]⟩
  have hlo : b = d := by
    have := congrArg (BitVec.extractLsb' 0 w) h
    simpa only [BitVec.extractLsb'_append_eq_of_add_le (Nat.zero_add w).le, BitVec.extractLsb'_eq_self] using this
  subst hlo
  exact ⟨(BitVec.append_left_inj b).mp h, rfl⟩

/-- A row of format XY fixes the major opcode and the last nibble. -/
theorem and_F00F_eq_iff (op : Word) (t f : BitVec 4) :
    op &&& 0xF00F = t ++ 0#4 ++ 0#4 ++ f ↔ majorOpcode op = t ∧ countBits (fieldN op) = f := by
  conv_lhs => rw [← wordXY_fields op, wordXY_mask]
  simp only [append_eq_append_iff, and_true]

/-- A row of format X fixes the major opcode and the low byte. -/
theorem and_F0FF_eq_iff (op : Word) (t : BitVec 4) (f : Byte) :
    op &&& 0xF0FF = t ++ 0#4 ++ f ↔ majorOpcode op = t ∧ fieldKK op = f := by
  conv_lhs => rw [← wordX_fields op, wordX_mask]
  simp only [append_eq_append_iff, and_true]

/-! ### The rows give each word its own instruction -/

/-- A row is sound when a word that matches it is the word of the well-formed instruction the row builds from it. -/
def OpcodeRow.Sound (row : OpcodeRow) : Prop :=
  ∀ op, op &&& row.mask = row.bits → (row.build op).WellFormed = true ∧ encode (row.build op) = op

/-- A row that fixes every bit is sound for the instruction with its word. -/
theorem sound_fixed {name : String} {op : Word} {i : Instr} (hwf : i.WellFormed = true) (he : encode i = op) :
    OpcodeRow.Sound ⟨name, op, 0xFFFF, fun _ => i⟩ := by
  intro word hword
  have hones : word &&& 0xFFFF = word := BitVec.and_allOnes
  exact ⟨hwf, he.trans (hword.symm.trans hones)⟩

/-- A format A row is sound for an instruction that puts its address in the field. -/
theorem sound_formatA {name : String} {t : BitVec 4} {build : Addr12 → Instr}
    (h : ∀ nnn, (build nnn).WellFormed = true ∧ encode (build nnn) = wordA t nnn) :
    OpcodeRow.Sound ⟨name, t ++ 0#12, 0xF000, fun op => build (fieldNNN op)⟩ := by
  intro op hop
  obtain ⟨hwf, he⟩ := h (fieldNNN op)
  exact ⟨hwf, by rw [he, ← (and_F000_eq_iff op t).mp hop, wordA_fields]⟩

/-- A format XK row is sound for an instruction that puts its register and its byte in their fields. -/
theorem sound_formatXK {name : String} {t : BitVec 4} {build : Reg → Byte → Instr}
    (h : ∀ x kk, (build x kk).WellFormed = true ∧ encode (build x kk) = wordXK t x kk) :
    OpcodeRow.Sound ⟨name, t ++ 0#12, 0xF000, fun op => build (fieldX op) (fieldKK op)⟩ := by
  intro op hop
  obtain ⟨hwf, he⟩ := h (fieldX op) (fieldKK op)
  exact ⟨hwf, by rw [he, ← (and_F000_eq_iff op t).mp hop, wordXK_fields]⟩

/-- A format XY row is sound for an instruction that puts its registers in their fields and the row's nibble last. -/
theorem sound_formatXY {name : String} {t f : BitVec 4} {build : Reg → Reg → Instr}
    (h : ∀ x y, (build x y).WellFormed = true ∧ encode (build x y) = wordXY t x y f) :
    OpcodeRow.Sound ⟨name, t ++ 0#4 ++ 0#4 ++ f, 0xF00F, fun op => build (fieldX op) (fieldY op)⟩ := by
  intro op hop
  obtain ⟨hwf, he⟩ := h (fieldX op) (fieldY op)
  obtain ⟨rfl, rfl⟩ := (and_F00F_eq_iff op t f).mp hop
  exact ⟨hwf, by rw [he, wordXY_fields]⟩

/-- A format X row that names a register is sound for an instruction that puts it in the field. -/
theorem sound_formatX {name : String} {t : BitVec 4} {f : Byte} {build : Reg → Instr}
    (h : ∀ x, (build x).WellFormed = true ∧ encode (build x) = wordX t (regBits x) f) :
    OpcodeRow.Sound ⟨name, t ++ 0#4 ++ f, 0xF0FF, fun op => build (fieldX op)⟩ := by
  intro op hop
  obtain ⟨hwf, he⟩ := h (fieldX op)
  obtain ⟨rfl, rfl⟩ := (and_F0FF_eq_iff op t f).mp hop
  exact ⟨hwf, by rw [he, regBits_fieldX, wordX_fields]⟩

/-- A 4-bit field is a count of at most 15 (R71, R80). -/
theorem fieldXCount_le (op : Word) : fieldXCount op ≤ 15 := Nat.le_of_lt_succ (BitVec.isLt _)

/-- The last nibble is a count of at most 15 (R71, R80). -/
theorem fieldN_le (op : Word) : fieldN op ≤ 15 := Nat.le_of_lt_succ (BitVec.isLt _)

/-- A format X row that names a count is sound for an instruction that is well-formed up to 15 and puts it in the
field. -/
theorem sound_formatX_count {name : String} {t : BitVec 4} {f : Byte} {build : Nat → Instr}
    (h : ∀ n ≤ 15, (build n).WellFormed = true ∧ encode (build n) = wordX t (countBits n) f) :
    OpcodeRow.Sound ⟨name, t ++ 0#4 ++ f, 0xF0FF, fun op => build (fieldXCount op)⟩ := by
  intro op hop
  obtain ⟨hwf, he⟩ := h (fieldXCount op) (fieldXCount_le op)
  obtain ⟨rfl, rfl⟩ := (and_F0FF_eq_iff op t f).mp hop
  exact ⟨hwf, by rw [he, countBits_fieldXCount, wordX_fields]⟩

/-- The row of DRW is sound: its three fields are the three operands (R172). -/
theorem sound_drw {name : String} :
    OpcodeRow.Sound ⟨name, 0xD000, 0xF000, fun op => .drw (fieldX op) (fieldY op) (fieldN op)⟩ := by
  intro op hop
  have hmajor : majorOpcode op = 0xD := (and_F000_eq_iff op 0xD).mp hop
  exact ⟨decide_eq_true (fieldN_le op), by rw [encode, ← hmajor, wordXY_fields]⟩

/-- Rows 1 to 9 are sound. -/
theorem opcodeRowsLow_sound : ∀ row ∈ opcodeRowsLow, row.Sound := by
  simp only [opcodeRowsLow, List.forall_mem_cons]
  exact ⟨sound_fixed rfl rfl,
    sound_fixed rfl rfl,
    sound_formatA (build := .jmp) fun _ => ⟨rfl, rfl⟩,
    sound_formatA (build := .call) fun _ => ⟨rfl, rfl⟩,
    sound_formatXK (build := .seVB) fun _ _ => ⟨rfl, rfl⟩,
    sound_formatXK (build := .sneVB) fun _ _ => ⟨rfl, rfl⟩,
    sound_formatXY (build := .seVV) fun _ _ => ⟨rfl, rfl⟩,
    sound_formatXK (build := .ldVB) fun _ _ => ⟨rfl, rfl⟩,
    sound_formatXK (build := .addVB) fun _ _ => ⟨rfl, rfl⟩,
    List.forall_mem_nil _⟩

/-- Rows 10 to 18 are sound. -/
theorem opcodeRowsEight_sound : ∀ row ∈ opcodeRowsEight, row.Sound := by
  simp only [opcodeRowsEight, List.forall_mem_cons]
  exact ⟨sound_formatXY (build := .ldVV) fun _ _ => ⟨rfl, rfl⟩,
    sound_formatXY (build := .orVV) fun _ _ => ⟨rfl, rfl⟩,
    sound_formatXY (build := .andVV) fun _ _ => ⟨rfl, rfl⟩,
    sound_formatXY (build := .xorVV) fun _ _ => ⟨rfl, rfl⟩,
    sound_formatXY (build := .addVV) fun _ _ => ⟨rfl, rfl⟩,
    sound_formatXY (build := .sub) fun _ _ => ⟨rfl, rfl⟩,
    sound_formatXY (build := .shr) fun _ _ => ⟨rfl, rfl⟩,
    sound_formatXY (build := .subn) fun _ _ => ⟨rfl, rfl⟩,
    sound_formatXY (build := .shl) fun _ _ => ⟨rfl, rfl⟩,
    List.forall_mem_nil _⟩

/-- Rows 19 to 25 are sound. -/
theorem opcodeRowsMid_sound : ∀ row ∈ opcodeRowsMid, row.Sound := by
  simp only [opcodeRowsMid, List.forall_mem_cons]
  exact ⟨sound_formatXY (build := .sneVV) fun _ _ => ⟨rfl, rfl⟩,
    sound_formatA (build := .ldI) fun _ => ⟨rfl, rfl⟩,
    sound_formatA (build := .jmpVA) fun _ => ⟨rfl, rfl⟩,
    sound_formatXK (build := .rnd) fun _ _ => ⟨rfl, rfl⟩,
    sound_drw,
    sound_formatX (build := .skp) fun _ => ⟨rfl, rfl⟩,
    sound_formatX (build := .sknp) fun _ => ⟨rfl, rfl⟩,
    List.forall_mem_nil _⟩

/-- Rows 26 to 34 are sound. -/
theorem opcodeRowsHigh_sound : ∀ row ∈ opcodeRowsHigh, row.Sound := by
  simp only [opcodeRowsHigh, List.forall_mem_cons]
  exact ⟨sound_formatX (build := .ldVDT) fun _ => ⟨rfl, rfl⟩,
    sound_formatX (build := .ldVK) fun _ => ⟨rfl, rfl⟩,
    sound_formatX (build := .ldDTV) fun _ => ⟨rfl, rfl⟩,
    sound_formatX (build := .ldSTV) fun _ => ⟨rfl, rfl⟩,
    sound_formatX (build := .addI) fun _ => ⟨rfl, rfl⟩,
    sound_formatX (build := .ldF) fun _ => ⟨rfl, rfl⟩,
    sound_formatX (build := .ldB) fun _ => ⟨rfl, rfl⟩,
    sound_formatX_count (build := .ldMV) fun _ hn => ⟨decide_eq_true hn, rfl⟩,
    sound_formatX_count (build := .ldVM) fun _ hn => ⟨decide_eq_true hn, rfl⟩,
    List.forall_mem_nil _⟩

/-- Every row of the opcode map is sound. -/
theorem opcodeTable_sound : ∀ row ∈ opcodeTable, row.Sound := by
  simp only [opcodeTable, List.forall_mem_append]
  exact ⟨⟨⟨opcodeRowsLow_sound, opcodeRowsEight_sound⟩, opcodeRowsMid_sound⟩, opcodeRowsHigh_sound⟩

/-! ### The round trip from the word -/

/-- R75: a word that decodes matches a row, and its instruction is the one that row builds. -/
theorem exists_row_of_decodeWord_ok {op : Word} {i : Instr} (h : decodeWord op = .ok i) :
    ∃ row ∈ opcodeTable, op &&& row.mask = row.bits ∧ row.build op = i := by
  unfold decodeWord at h
  split at h
  · next row hfind =>
    exact ⟨row, List.mem_of_find?_eq_some hfind, by simpa using List.find?_some hfind, by injection h⟩
  · cases h

/-- Settles O7: the row that decodes the word is sound. -/
theorem encodingUndoesDecoding : Obligations.EncodingUndoesDecoding := by
  unfold Obligations.EncodingUndoesDecoding
  intro op i h
  obtain ⟨row, hrow, hmatch, rfl⟩ := exists_row_of_decodeWord_ok h
  exact opcodeTable_sound row hrow op hmatch

end Sys2Proof

/-! The words that match no row (spec/30_encoding.md R75, R76), major opcode by major opcode. -/
namespace Sys2Proof

/-- Settles O8: two rows that a word matches would ask for the same bits under both their masks, and no two rows do. -/
theorem opcodeMapRowsAreDisjoint : Obligations.OpcodeMapRowsAreDisjoint := by
  unfold Obligations.OpcodeMapRowsAreDisjoint
  exact opcodeTable_pairwise_conflict.imp fun hconflict _ ⟨hrow, hother⟩ =>
    hconflict (bits_and_mask_comm_of_match hrow hother)

/-! ### Fields and masks as numbers -/

/-- Joined fields, as a number. -/
theorem toNat_append_eq_add {v w : Nat} (a : BitVec v) (b : BitVec w) : (a ++ b).toNat = a.toNat * 2 ^ w + b.toNat := by
  rw [BitVec.toNat_append, ← Nat.shiftLeft_add_eq_or_of_lt b.isLt, Nat.shiftLeft_eq]

/-- The major opcode, as a number. -/
theorem majorOpcode_toNat (op : Word) : (majorOpcode op).toNat = op.toNat / 4096 := by
  rw [majorOpcode, BitVec.extractLsb'_toNat, Nat.shiftRight_eq_div_pow]
  omega

/-- The last nibble, as a number. -/
theorem fieldN_eq_mod (op : Word) : fieldN op = op.toNat % 16 := by
  rw [fieldN, BitVec.extractLsb'_toNat, Nat.shiftRight_zero]

/-- The low byte, as a number. -/
theorem fieldKK_toNat (op : Word) : (fieldKK op).toNat = op.toNat % 256 := by
  rw [fieldKK, BitVec.extractLsb'_toNat, Nat.shiftRight_zero]

/-- Format XY: which words match a row. -/
theorem and_F00F_eq_iff_toNat (op b : Word) :
    op &&& 0xF00F#16 = b ↔ op.toNat % 16 + op.toNat / 4096 * 4096 = b.toNat := by
  have hmask := wordXY_mask (majorOpcode op) (fieldX op) (fieldY op) (countBits (fieldN op))
  rw [wordXY_fields] at hmask
  rw [show op &&& 0xF00F#16 = _ from hmask, ← BitVec.toNat_inj]
  simp only [toNat_append_eq_add, majorOpcode_toNat, countBits_toNat _ (fieldN_le op), BitVec.toNat_ofNat]
  rw [fieldN_eq_mod]
  omega

/-- Format X: which words match a row. -/
theorem and_F0FF_eq_iff_toNat (op b : Word) :
    op &&& 0xF0FF#16 = b ↔ op.toNat % 256 + op.toNat / 4096 * 4096 = b.toNat := by
  have hmask := wordX_mask (majorOpcode op) (op.extractLsb' 8 4) (fieldKK op)
  rw [wordX_fields] at hmask
  rw [show op &&& 0xF0FF#16 = _ from hmask, ← BitVec.toNat_inj]
  simp only [toNat_append_eq_add, majorOpcode_toNat, fieldKK_toNat, BitVec.toNat_ofNat]
  omega

/-! ### The unrecognized words of one major opcode -/

/-- R76: a word is unrecognized exactly when it matches no row of its major opcode. -/
theorem unrecognized_iff {op : Word} {t : BitVec 4} {rows : List OpcodeRow} (ht : majorOpcode op = t)
    (hrows : rowsOfMajor t = rows) :
    decodeWord op = .error (.unrecognized op) ↔ ∀ row ∈ rows, op &&& row.mask ≠ row.bits := by
  rw [decodeWord, find?_opcodeTable, ht, hrows]
  split
  · next row hfind =>
    simp only [reduceCtorEq, false_iff, not_forall, not_not]
    exact ⟨row, List.mem_of_find?_eq_some hfind, by simpa using List.find?_some hfind⟩
  · next hfind => simpa using hfind

/-- Major opcode 0 holds CLS and RET alone. -/
theorem unrecognized_iff_zero {op : Word} (h : majorOpcode op = 0x0) :
    decodeWord op = .error (.unrecognized op) ↔ op.toNat ≠ 0x00E0 ∧ op.toNat ≠ 0x00EE := by
  rw [unrecognized_iff (rows := opcodeRowsLow.take 2) h rfl]
  have hones : op &&& 0xFFFF#16 = op := BitVec.and_allOnes
  have hne (b : Word) : op ≠ b ↔ op.toNat ≠ b.toNat := BitVec.toNat_inj.not.symm
  simp [opcodeRowsLow, hones, hne]

/-- A major opcode with one format XY row of function nibble 0 leaves the other nibbles unrecognized. -/
theorem unrecognized_iff_of_xy0 {op : Word} {t : BitVec 4} {name : String} {build : Word → Instr}
    (h : majorOpcode op = t) (hrows : rowsOfMajor t = [⟨name, t ++ 0#12, 0xF00F, build⟩]) :
    decodeWord op = .error (.unrecognized op) ↔ op.toNat % 16 ≠ 0 := by
  have hbits : (t ++ 0#12).toNat = op.toNat / 4096 * 4096 := by
    simp only [← h, toNat_append_eq_add, majorOpcode_toNat, BitVec.toNat_ofNat, Nat.zero_mod, Nat.add_zero,
      Nat.reducePow]
  rw [unrecognized_iff h hrows]
  simp [and_F00F_eq_iff_toNat, hbits]

/-- Major opcode 8 has nine function nibbles. -/
theorem unrecognized_iff_eight {op : Word} (h : majorOpcode op = 0x8) :
    decodeWord op = .error (.unrecognized op) ↔ op.toNat % 16 ∈ [8, 9, 0xA, 0xB, 0xC, 0xD, 0xF] := by
  have hq : op.toNat / 4096 = 8 := by rw [← majorOpcode_toNat, h]; rfl
  rw [unrecognized_iff (rows := opcodeRowsEight) h rfl]
  simp [opcodeRowsEight, and_F00F_eq_iff_toNat, hq]
  omega

/-- Major opcode E has two function bytes. -/
theorem unrecognized_iff_e {op : Word} (h : majorOpcode op = 0xE) :
    decodeWord op = .error (.unrecognized op) ↔ op.toNat % 256 ∉ [0x9E, 0xA1] := by
  have hq : op.toNat / 4096 = 0xE := by rw [← majorOpcode_toNat, h]; rfl
  rw [unrecognized_iff (rows := opcodeRowsMid.drop 5) h rfl]
  simp [opcodeRowsMid, and_F0FF_eq_iff_toNat, hq]

/-- Major opcode F has nine function bytes. -/
theorem unrecognized_iff_f {op : Word} (h : majorOpcode op = 0xF) :
    decodeWord op = .error (.unrecognized op) ↔
      op.toNat % 256 ∉ [0x07, 0x0A, 0x15, 0x18, 0x1E, 0x29, 0x33, 0x55, 0x65] := by
  have hq : op.toNat / 4096 = 0xF := by rw [← majorOpcode_toNat, h]; rfl
  rw [unrecognized_iff (rows := opcodeRowsHigh) h rfl]
  simp [opcodeRowsHigh, and_F0FF_eq_iff_toNat, hq]

/-- The major opcodes all of whose words are one instruction's. -/
def fullMajors : List (BitVec 4) := [0x1, 0x2, 0x3, 0x4, 0x6, 0x7, 0xA, 0xB, 0xC, 0xD]

/-- Each of them has a row that fixes nothing but the major opcode. -/
theorem exists_row_of_fullMajors :
    ∀ t ∈ fullMajors, ∃ row ∈ opcodeTable, row.mask = 0xF000 ∧ row.bits = t ++ 0#12 := by decide

/-- No word of such a major opcode is unrecognized. -/
theorem not_unrecognized_of_fullMajors {op : Word} (h : majorOpcode op ∈ fullMajors) :
    decodeWord op ≠ .error (.unrecognized op) := by
  obtain ⟨row, hrow, hmask, hbits⟩ := exists_row_of_fullMajors _ h
  have hmatch : op &&& row.mask = row.bits := by rw [hmask, hbits, and_F000_eq_iff]
  rw [decodeWord_of_match hrow hmatch]
  exact fun hne => nomatch hne

/-- The sixteen major opcodes: the full ones, and the six with words that are no instruction. -/
theorem fullMajors_or_six :
    ∀ t : BitVec 4, t ∈ fullMajors ∨ t = 0x0 ∨ t = 0x5 ∨ t = 0x8 ∨ t = 0x9 ∨ t = 0xE ∨ t = 0xF := by decide

/-- None of the full ones is one of the six. -/
theorem ne_of_mem_fullMajors : ∀ t ∈ fullMajors, t.toNat ≠ 0x0 ∧ t.toNat ≠ 0x5 ∧ t.toNat ≠ 0x8 ∧ t.toNat ≠ 0x9 ∧
    t.toNat ≠ 0xE ∧ t.toNat ≠ 0xF := by decide

/-- Settles O9: the six classes are the words left over in the six major opcodes that have any. -/
theorem unrecognizedWordsAreTheSixClasses : Obligations.UnrecognizedWordsAreTheSixClasses := by
  unfold Obligations.UnrecognizedWordsAreTheSixClasses
  intro op
  simp only [← majorOpcode_toNat]
  obtain h | h | h | h | h | h | h := fullMajors_or_six (majorOpcode op)
  · obtain ⟨h0, h5, h8, h9, hE, hF⟩ := ne_of_mem_fullMajors _ h
    simp [not_unrecognized_of_fullMajors h, h0, h5, h8, h9, hE, hF]
  · simp [unrecognized_iff_zero h, h]
  · simp [unrecognized_iff_of_xy0 h rfl, h]
  · simp [unrecognized_iff_eight h, h]
  · simp [unrecognized_iff_of_xy0 h rfl, h]
  · simp [unrecognized_iff_e h, h]
  · simp [unrecognized_iff_f h, h]

end Sys2Proof

/-! What an instruction may change: the frame rule of each update, the footprint of each instruction, and that every
instruction either stays inside its footprint or takes a fault (spec/60_exceptions.md R186, R187). -/
namespace Sys2Proof.Machine

/-! ### Frames, update by update -/

section Frames
variable {w : Footprint} {s t : State}

/-- A state is in every frame of itself. -/
theorem Frame.refl (w : Footprint) (s : State) : Frame w s s := by constructor <;> intros <;> rfl

/-- `pc` is outside every frame. -/
theorem Frame.setPc (h : Frame w s t) (p : Word) : Frame w s (t.setPc p) := { h with }

/-- A register of the footprint may be written. -/
theorem Frame.setV (h : Frame w s t) {x : Reg} (hx : x ∈ w.regs) (b : Byte) : Frame w s (t.setV x b) :=
  { h with
    regs := fun r hr => by
      have hne : x ≠ r := fun heq => hr (heq ▸ hx)
      rw [State.setV_getV, if_neg hne, h.regs r hr] }

/-- `I` may be written where the footprint has it. -/
theorem Frame.setI (h : Frame w s t) (hw : w.index = true) (v : Word) : Frame w s (t.setI v) :=
  { h with index := fun hno => Bool.noConfusion (hw.symm.trans hno) }

/-- `DT` may be written where the footprint has it. -/
theorem Frame.setDT (h : Frame w s t) (hw : w.delay = true) (b : Byte) : Frame w s (t.setDT b) :=
  { h with delay := fun hno => Bool.noConfusion (hw.symm.trans hno) }

/-- `ST` may be written where the footprint has it. -/
theorem Frame.setST (h : Frame w s t) (hw : w.sound = true) (b : Byte) : Frame w s (t.setST b) :=
  { h with sound := fun hno => Bool.noConfusion (hw.symm.trans hno) }

/-- The stack may be written where the footprint has it. -/
theorem Frame.setStack (h : Frame w s t) (hw : w.stack = true) (st : List Word) : Frame w s (t.setStack st) :=
  { h with stack := fun hno => Bool.noConfusion (hw.symm.trans hno) }

/-- The framebuffer may be written where the footprint has it. -/
theorem Frame.setFB (h : Frame w s t) (hw : w.screen = true) (fb : Screen) : Frame w s (t.setFB fb) :=
  { h with screen := fun hno => Bool.noConfusion (hw.symm.trans hno) }

/-- Memory may be replaced by one that reads the same outside the footprint's stores. -/
theorem Frame.setMem (h : Frame w s t) {m : Memory} (hm : ∀ a, a ∉ w.stores → m.read a = s.mem.read a) :
    Frame w s (t.setMem m) :=
  { h with memory := hm }

end Frames

/-- Bytes stored from `I` on change no address outside the access (R145). -/
theorem read_writeBytes_of_not_mem {s : State} {n a : Nat} {bs : List Byte} (hlen : bs.length ≤ n)
    (ha : a ∉ accessAddrs s n) : (s.mem.writeBytes (effAddr s 0) bs).read a = s.mem.read a := by
  rw [mem_accessAddrs] at ha
  rw [Memory.read_writeBytes, if_neg]
  simp only [effAddr]
  omega

/-- A block load changes no register whose number is not below the count (R146). -/
theorem frame_loadBlock (s : State) (a n : Nat) :
    Frame { regs := (List.finRange 16).filter (fun r => r.val < n) } s (s.loadBlock a n) :=
  { Frame.refl _ s with
    regs := fun r hr => by
      have hge : ¬ r.val < n := by simpa using hr
      rw [State.loadBlock_getV, if_neg hge] }

/-! ### The footprint of an instruction -/

/-- What each instruction may change besides `pc`, where it takes no fault. -/
def footprint (s : State) : Instr → Footprint
  | .cls => { screen := true }
  | .ret | .call _ => { stack := true }
  | .jmp _ | .jmpVA _ | .seVB _ _ | .sneVB _ _ | .seVV _ _ | .sneVV _ _ | .skp _ | .sknp _ => {}
  | .ldVB x _ | .ldVV x _ | .orVV x _ | .andVV x _ | .xorVV x _ | .addVB x _ | .rnd x _ | .ldVDT x | .ldVK x =>
    { regs := [x] }
  | .addVV x _ | .sub x _ | .subn x _ | .shr x _ | .shl x _ => { regs := [x, VF] }
  | .addI _ => { regs := [VF], index := true }
  | .ldI _ | .ldF _ => { index := true }
  | .ldDTV _ => { delay := true }
  | .ldSTV _ => { sound := true }
  | .drw _ _ _ => { regs := [VF], screen := true }
  | .ldB _ => { stores := accessAddrs s 3 }
  | .ldMV count => { stores := accessAddrs s count }
  | .ldVM count => { regs := (List.finRange 16).filter (fun r => r.val < count) }

/-- What an instruction answers: a state in which only the footprint and `pc` can differ, or a fault with one of the
codes 2 to 5, which an instruction can raise, taken on the old state (R186, R187). -/
def CommitsOrFaults (w : Footprint) (s : State) (r : Result) : Prop :=
  (∃ t, r = .next t ∧ Frame w s t) ∨ ∃ cause : FaultCause, 2 ≤ cause.code.toNat ∧ r = .next (raise cause s)

/-- A state inside the footprint is a committed one. -/
theorem Frame.commits {w : Footprint} {s t : State} (h : Frame w s t) : CommitsOrFaults w s (.next t) :=
  .inl ⟨t, rfl, h⟩

/-- A fault with a code from 2 on is one an instruction can raise. -/
theorem commitsOrFaults_raised (w : Footprint) (s : State) {cause : FaultCause} (h : 2 ≤ cause.code.toNat) :
    CommitsOrFaults w s (raised cause s) :=
  .inr ⟨cause, h, rfl⟩

/-- An access commits what the instruction computes, or takes `AddressOutOfRange` (R140). -/
theorem Frame.withAccess {w : Footprint} {s t : State} (h : Frame w s t) (n : Nat) :
    CommitsOrFaults w s (withAccess n s t) := by
  by_cases hr : n = 0 ∨ s.I.toNat + n ≤ 4096
  · rw [withAccess_inRange n s t hr]
    exact h.commits
  · rw [withAccess_outOfRange n s t (by omega) (by omega)]
    exact commitsOrFaults_raised w s (by simp [FaultCause.code])

/-- A key test skips or goes on, or takes `KeyIndexOutOfRange` (R106, R107). -/
theorem commitsOrFaults_skipOnKey (pressed : Bool) (x : Reg) (s : State) :
    CommitsOrFaults {} s (skipOnKey pressed x s) := by
  unfold skipOnKey
  split
  · exact commitsOrFaults_raised {} s (by simp [FaultCause.code])
  · exact (frame_setPc s _).commits

/-- CALL pushes and jumps, or takes `StackOverflow` (R110, R184). -/
theorem commitsOrFaults_execCall (nnn : Addr12) (s : State) : CommitsOrFaults { stack := true } s (execCall nnn s) := by
  unfold execCall
  split
  · exact commitsOrFaults_raised _ s (by decide)
  · exact (((Frame.refl _ s).setStack rfl _).setPc _).commits

/-- RET pops, or takes `StackUnderflow` (R111, R183). -/
theorem commitsOrFaults_execRet (s : State) : CommitsOrFaults { stack := true } s (execRet s) := by
  unfold execRet
  split
  · exact commitsOrFaults_raised _ s (by decide)
  · exact (((Frame.refl _ s).setStack rfl _).setPc _).commits

/-- LD_VK writes the key it finds, or waits (R161). -/
theorem commitsOrFaults_execLdVK (x : Reg) (s : State) : CommitsOrFaults { regs := [x] } s (execLdVK x s) := by
  unfold execLdVK
  split
  · exact (frame_setV_setPc s x _ _).commits
  · exact ((Frame.refl _ s).setPc _).commits

/-- A flag write and then a write of `V[x]` are inside the frame of the two registers. -/
theorem frame_flag_setV (s : State) (x : Reg) (f b : Byte) (w : Word) :
    Frame { regs := [x, VF] } s (((s.setFlag f).setV x b).setPc w) :=
  (((Frame.refl _ s).setV (by simp) f).setV (by simp) b).setPc w

/-- Every instruction stays inside its footprint or takes a fault. -/
theorem exec_commitsOrFaults (i : Instr) (s : State) : CommitsOrFaults (footprint s i) s (exec i s) := by
  cases i with
  | cls => exact (frame_setFB_setPc s _ _).commits
  | ret => exact commitsOrFaults_execRet s
  | call nnn => exact commitsOrFaults_execCall nnn s
  | jmp | jmpVA | seVB | sneVB | seVV | sneVV => exact (frame_setPc s _).commits
  | skp x => exact commitsOrFaults_skipOnKey true x s
  | sknp x => exact commitsOrFaults_skipOnKey false x s
  | ldVB x | ldVV x | orVV x | andVV x | xorVV x | addVB x | rnd x | ldVDT x => exact (frame_setV_setPc s x _ _).commits
  | ldVK x => exact commitsOrFaults_execLdVK x s
  | addVV x | sub x | subn x | shr x | shl x => exact (frame_flag_setV s x _ _ _).commits
  | addI x => exact ((((Frame.refl _ s).setV (by simp [footprint]) _).setI rfl _).setPc _).commits
  | ldI | ldF => exact (frame_setI_setPc s _ _).commits
  | ldDTV x => exact (((Frame.refl _ s).setDT rfl _).setPc _).commits
  | ldSTV x => exact (((Frame.refl _ s).setST rfl _).setPc _).commits
  | drw x y n => exact ((((Frame.refl _ s).setV (by simp [footprint]) _).setFB rfl _).setPc _).withAccess n
  | ldB x =>
    exact (((Frame.refl _ s).setMem fun _ => read_writeBytes_of_not_mem (by simp [bcdBytes])).setPc _).withAccess 3
  | ldMV n => exact (((Frame.refl _ s).setMem fun _ => read_writeBytes_of_not_mem (by simp)).setPc _).withAccess n
  | ldVM n => exact ((frame_loadBlock s _ n).setPc _).withAccess n

/-- Everything an instruction can have done. -/
theorem exec_cases {i : Instr} {s t : State} (h : exec i s = .next t) :
    Frame (footprint s i) s t ∨ ∃ cause : FaultCause, 2 ≤ cause.code.toNat ∧ t = raise cause s := by
  obtain ⟨u, hu, hframe⟩ | ⟨cause, hcode, hu⟩ := exec_commitsOrFaults i s
  · cases hu.symm.trans h
    exact .inl hframe
  · cases hu.symm.trans h
    exact .inr ⟨cause, hcode, rfl⟩

/-- Raising a cause is taking the fault with its code and value (R186). -/
theorem takesFault_raise (cause : FaultCause) (s : State) : TakesFault cause.code cause.value s (raise cause s) := rfl

/-- Settles O23: every instruction keeps `status`, which no footprint holds, or takes a fault. -/
theorem everyInstructionAnswersANextState : Obligations.EveryInstructionAnswersANextState := by
  unfold Obligations.EveryInstructionAnswersANextState
  intro i s
  obtain ⟨t, he, hframe⟩ | ⟨cause, hcode, he⟩ := exec_commitsOrFaults i s
  · exact ⟨t, he, .inl hframe.status⟩
  · exact ⟨_, he, .inr ⟨cause.code, cause.value, hcode, cause.code_bounds.2, takesFault_raise cause s⟩⟩

/-- Every instruction answers a next state. -/
theorem exists_exec_eq_next (i : Instr) (s : State) : ∃ t, exec i s = .next t := by
  obtain ⟨t, he, -⟩ | ⟨cause, -, he⟩ := exec_commitsOrFaults i s
  · exact ⟨t, he⟩
  · exact ⟨_, he⟩

/-! ### Whole-machine rules from the footprints -/

/-- Settles O15: a fetch or decode fault, and the fault of an instruction, is `raise` on the old state; any other
instruction keeps the running status, and so does the end of its step. -/
theorem stepCommitsOrChangesOnlyTheFaultRecord : Obligations.StepCommitsOrChangesOnlyTheFaultRecord := by
  unfold Obligations.StepCommitsOrChangesOnlyTheFaultRecord
  intro s t h
  have hraise (cause : FaultCause) : ∃ (code : BitVec 3) (value : Option (BitVec 17)),
      1 ≤ code.toNat ∧ code.toNat ≤ 5 ∧ TakesFault code value s (raise cause s) :=
    ⟨cause.code, cause.value, cause.code_bounds.1, cause.code_bounds.2, takesFault_raise cause s⟩
  obtain ⟨hrun, ⟨cause, -, rfl⟩ | ⟨op, -, -, -, rfl⟩ | ⟨-, i, u, -, -, he, rfl⟩⟩ := step_cases h
  · exact .inr (hraise cause)
  · exact .inr (hraise _)
  · obtain hframe | ⟨cause, -, rfl⟩ := exec_cases he
    · have hu : u.status = .running := hframe.status.trans hrun
      exact .inl (by rw [finishStep_running u hu, endStep_status, hu])
    · exact .inr (by rw [finishStep_raise]; exact hraise cause)

/-- The end of a step writes neither the keypad nor the parameters. -/
theorem finishStep_keys_cfg (s : State) : (finishStep s).K = s.K ∧ (finishStep s).cfg = s.cfg := by
  cases h : s.status with
  | running => rw [finishStep_running s h]; exact ⟨rfl, rfl⟩
  | faulted => rw [finishStep_faulted s h]; exact ⟨rfl, rfl⟩

/-- Settles O20: the keypad and the parameters are outside every footprint, the fault record and the end of the step. -/
theorem noStepWritesKeypadOrParameters : Obligations.NoStepWritesKeypadOrParameters := by
  unfold Obligations.NoStepWritesKeypadOrParameters
  intro s t h
  obtain ⟨-, ⟨cause, -, rfl⟩ | ⟨op, -, -, -, rfl⟩ | ⟨-, i, u, -, -, he, rfl⟩⟩ := step_cases h
  · exact ⟨rfl, rfl⟩
  · exact ⟨rfl, rfl⟩
  · obtain ⟨hK, hcfg⟩ := finishStep_keys_cfg u
    obtain hframe | ⟨cause, -, rfl⟩ := exec_cases he
    · exact ⟨hK.trans hframe.keys, hcfg.trans hframe.cfg⟩
    · exact ⟨hK, hcfg⟩

section Writers
variable {i : Instr} {s : State}

/-- The instructions that write `I` (R23). -/
theorem writer_of_index (h : (footprint s i).index = true) :
    (∃ nnn, i = .ldI nnn) ∨ (∃ x, i = .ldF x) ∨ (∃ x, i = .addI x) := by
  cases i <;> simp [footprint] at h ⊢

/-- The instruction that writes `DT` (R24). -/
theorem writer_of_delay (h : (footprint s i).delay = true) : ∃ x, i = .ldDTV x := by
  cases i <;> simp [footprint] at h ⊢

/-- The instruction that writes `ST` (R24). -/
theorem writer_of_sound (h : (footprint s i).sound = true) : ∃ x, i = .ldSTV x := by
  cases i <;> simp [footprint] at h ⊢

/-- The instructions that write the stack (R27). -/
theorem writer_of_stack (h : (footprint s i).stack = true) : (∃ nnn, i = .call nnn) ∨ i = .ret := by
  cases i <;> simp [footprint] at h ⊢

/-- The instructions that write the framebuffer (R29). -/
theorem writer_of_screen (h : (footprint s i).screen = true) : i = .cls ∨ ∃ x y n, i = .drw x y n := by
  cases i <;> simp [footprint] at h ⊢

/-- The instructions that store to memory (R51). -/
theorem writer_of_stores {a : Nat} (h : a ∈ (footprint s i).stores) : (∃ x, i = .ldB x) ∨ ∃ count, i = .ldMV count := by
  cases i <;> simp [footprint] at h ⊢

end Writers

/-- Settles O21: a fault writes none of these, and outside a fault what has changed is in the instruction's
footprint. -/
theorem specialStateHasOnlyItsNamedWriters : Obligations.SpecialStateHasOnlyItsNamedWriters := by
  unfold Obligations.SpecialStateHasOnlyItsNamedWriters
  intro i s t h
  obtain hframe | ⟨cause, -, rfl⟩ := exec_cases h
  · refine ⟨fun hne => writer_of_index (eq_true_of_ne_false (mt hframe.index hne)),
      fun hne => writer_of_delay (eq_true_of_ne_false (mt hframe.delay hne)),
      fun hne => writer_of_sound (eq_true_of_ne_false (mt hframe.sound hne)),
      fun hne => writer_of_stack (eq_true_of_ne_false (mt hframe.stack hne)), ?cells, ?bytes⟩
    case cells =>
      rintro ⟨c, hne⟩
      exact writer_of_screen (eq_true_of_ne_false fun hno => hne (hframe.screen hno c))
    case bytes =>
      rintro ⟨a, hne⟩
      exact writer_of_stores (not_not.mp (mt (hframe.memory a) hne))
  · simp

/-- Settles O22: a fault writes no register, and outside a fault VF has changed only if it is in the footprint; a block
load of at most 15 registers does not reach it. -/
theorem flagRegisterHasOnlyItsNamedWriters : Obligations.FlagRegisterHasOnlyItsNamedWriters := by
  unfold Obligations.FlagRegisterHasOnlyItsNamedWriters
  intro i s t hwf h hne
  obtain hframe | ⟨cause, -, rfl⟩ := exec_cases h
  · have hVF : VF ∈ (footprint s i).regs := not_not.mp (mt (hframe.regs VF) hne)
    cases i with
    | ldVM count =>
      have hle : count ≤ 15 := of_decide_eq_true hwf
      have hlt : 15 < count := by simpa [footprint] using hVF
      exact absurd hlt (by omega)
    | addVV | sub | subn | shr | shl | addI | drw => simp
    | ldVB x | addVB x | rnd x | ldVV x | orVV x | andVV x | xorVV x | ldVDT x | ldVK x =>
      obtain rfl : VF = x := List.mem_singleton.mp hVF
      simp
    | _ => cases hVF
  · exact absurd rfl hne

end Sys2Proof.Machine

/-! The invariant of the machine (spec/10_state.md R25, R27, R50): the rule of each update, and that instructions, steps
and host operations keep it. -/
namespace Sys2Proof.Machine

/-! ### The invariant, update by update -/

section Invariant
variable {s : State}

/-- Registers, `I`, timers and framebuffer are in no clause of the invariant, so writing them keeps it. -/
theorem State.Inv.setV (h : s.Inv) (x : Reg) (b : Byte) : (s.setV x b).Inv := { h with }

theorem State.Inv.setI (h : s.Inv) (v : Word) : (s.setI v).Inv := { h with }

theorem State.Inv.setDT (h : s.Inv) (b : Byte) : (s.setDT b).Inv := { h with }

theorem State.Inv.setST (h : s.Inv) (b : Byte) : (s.setST b).Inv := { h with }

theorem State.Inv.setFB (h : s.Inv) (fb : Screen) : (s.setFB fb).Inv := { h with }

theorem State.Inv.loadBlock (h : s.Inv) (a n : Nat) : (s.loadBlock a n).Inv := { h with }

/-- Memory in canonical form may replace memory. -/
theorem State.Inv.setMem (h : s.Inv) {m : Memory} (hm : m.wf) : (s.setMem m).Inv := { h with memory := hm }

/-- A stack of return addresses within the depth may replace the stack. -/
theorem State.Inv.setStack (h : s.Inv) {st : List Word} (hst : ∀ a ∈ st, 2 ≤ a.toNat ∧ a.toNat ≤ 4096)
    (hdepth : ∀ d, s.cfg.stackDepth = some d → st.length ≤ d) : (s.setStack st).Inv :=
  { h with returns := hst, depth := hdepth }

/-- A running core may go to any address up to 4350 (R25). -/
theorem State.Inv.setPc (h : s.Inv) (hrun : s.status = .running) {w : Word} (hw : w.toNat ≤ 4350) : (s.setPc w).Inv :=
  { h with counter := hw, fault := fun hf => nomatch hrun.symm.trans hf }

/-- A fault keeps the invariant: `raise` records one of the five codes and `pc` (R180, R187). -/
theorem State.Inv.raise (h : s.Inv) (cause : FaultCause) : (raise cause s).Inv :=
  { h with fault := fun _ => ⟨cause.code_bounds.1, cause.code_bounds.2, rfl⟩ }

/-- The end of a step keeps the invariant. -/
theorem State.Inv.finishStep (h : s.Inv) : (finishStep s).Inv := by
  cases hs : s.status with
  | running => rw [finishStep_running s hs]; exact { h with }
  | faulted => rwa [finishStep_faulted s hs]

/-- An access keeps the invariant where what it commits does. -/
theorem State.Inv.withAccess {n : Nat} {t u : State} (h : s.Inv) (ht : (n = 0 ∨ s.I.toNat + n ≤ 4096) → t.Inv)
    (hu : withAccess n s t = .next u) : u.Inv := by
  obtain ⟨hr, rfl⟩ | ⟨-, -, rfl⟩ := withAccess_cases hu
  · exact ht hr
  · exact h.raise _

/-- Bytes stored inside an access that stays in the store leave memory in canonical form. -/
theorem wf_writeBytes_access {n : Nat} {bs : List Byte} (hm : s.mem.wf) (hr : n = 0 ∨ s.I.toNat + n ≤ 4096)
    (hlen : bs.length ≤ n) : (s.mem.writeBytes (effAddr s 0) bs).wf := by
  cases bs with
  | nil => exact hm
  | cons b bs =>
    refine Memory.wf_writeBytes _ _ _ hm ?_
    simp only [effAddr, List.length_cons] at hlen ⊢
    omega

end Invariant

/-! ### Targets -/

/-- A 12-bit address, as a number (R108). -/
theorem addressOperand_toNat (nnn : Addr12) : (addressOperand nnn).toNat = nnn.toNat := by
  rw [addressOperand, BitVec.toNat_setWidth_of_le (by decide)]

/-- A widened register, as a number (R109, R147). -/
theorem State.wideV_toNat (s : State) (x : Reg) : (s.wideV x).toNat = (s.getV x).toNat := by
  rw [State.wideV, BitVec.toNat_setWidth_of_le (by decide)]

/-- The target of JMP_VA is the whole sum: 4095 + 255 fits 16 bits (R25, R109). -/
theorem addressOperand_add_wideV_toNat (nnn : Addr12) (s : State) (x : Reg) :
    (addressOperand nnn + s.wideV x).toNat = nnn.toNat + (s.getV x).toNat := by
  have hnnn : nnn.toNat < 4096 := nnn.isLt
  have hV : (s.getV x).toNat < 256 := (s.getV x).isLt
  rw [BitVec.toNat_add, addressOperand_toNat, s.wideV_toNat]
  omega

/-- No jump leaves 12 bits (R108). -/
theorem addressOperand_le (nnn : Addr12) : (addressOperand nnn).toNat ≤ 4350 := by
  rw [addressOperand_toNat]
  omega

/-- "No reachable `pc` exceeds 4350", which JMP_VA can reach (R25). -/
theorem addressOperand_add_wideV_le (nnn : Addr12) (s : State) (x : Reg) :
    (addressOperand nnn + s.wideV x).toNat ≤ 4350 := by
  rw [addressOperand_add_wideV_toNat]
  omega

/-! ### Instructions -/

section Instructions
variable {i : Instr} {s t : State} (hinv : s.Inv) (hrun : s.status = .running) (hpc : s.pc.toNat ≤ 4094)
include hinv hrun hpc

/-- Going on to the next instruction keeps the invariant, since the fetch was in the store (R91, R94). -/
theorem State.Inv.advance : s.advance.Inv := by
  refine hinv.setPc hrun ?_
  bv_omega

/-- A skip keeps the invariant (R101). -/
theorem State.Inv.skipIf (c : Bool) : (s.skipIf c).Inv := by
  refine hinv.setPc hrun ?_
  split <;> bv_omega

/-- A key test keeps the invariant, whether it skips, goes on or faults (R106, R107). -/
theorem State.Inv.skipOnKey {pressed : Bool} {x : Reg} (h : skipOnKey pressed x s = .next t) : t.Inv := by
  obtain ⟨-, rfl⟩ | ⟨-, rfl⟩ := skipOnKey_cases h
  · exact hinv.skipIf hrun hpc _
  · exact hinv.raise _

/-- CALL keeps the invariant: it pushes `pc0 + 2`, and only on a stack that is not full (R27, R110). -/
theorem State.Inv.execCall {nnn : Addr12} (h : execCall nnn s = .next t) : t.Inv := by
  unfold Machine.execCall at h
  split at h
  · cases h
    exact hinv.raise _
  · next hroom =>
    cases h
    refine (hinv.setStack (st := (s.pc + 2) :: s.stack) (fun a ha => ?returns) (fun d hd => ?depth)).setPc hrun
      (addressOperand_le nnn)
    case returns =>
      obtain rfl | ha := List.mem_cons.mp ha
      · constructor <;> bv_omega
      · exact hinv.returns a ha
    case depth =>
      have hlt : ¬ d ≤ s.stack.length := fun hle => hroom (s.stackFull_iff.mpr ⟨d, hd, hle⟩)
      simp only [List.length_cons]
      omega

omit hpc in
/-- RET keeps the invariant: it goes to a return address and leaves the others (R27, R111). -/
theorem State.Inv.execRet (h : execRet s = .next t) : t.Inv := by
  unfold Machine.execRet at h
  split at h
  · cases h
    exact hinv.raise _
  · next top rest hstack =>
    cases h
    have hreturns := hinv.returns
    have hdepth := hinv.depth
    rw [hstack] at hreturns hdepth
    have htop := hreturns top List.mem_cons_self
    refine (hinv.setStack (fun a ha => hreturns a (List.mem_cons_of_mem _ ha)) fun d hd => ?_).setPc hrun (by omega)
    exact Nat.le_of_succ_le (hdepth d hd)

/-- LD_VK keeps the invariant, whether it goes on or stays (R161). -/
theorem State.Inv.execLdVK {x : Reg} (h : execLdVK x s = .next t) : t.Inv := by
  unfold Machine.execLdVK at h
  split at h
  · cases h
    exact (hinv.setV x _).advance hrun hpc
  · cases h
    exact hinv.setPc hrun (by omega)

/-- Every instruction keeps the invariant on a running core that has fetched it inside the store. -/
theorem State.Inv.exec (h : exec i s = .next t) : t.Inv := by
  cases i with
  | cls => cases h; exact (hinv.setFB _).advance hrun hpc
  | ret => exact hinv.execRet hrun h
  | jmp nnn => cases h; exact hinv.setPc hrun (addressOperand_le nnn)
  | jmpVA nnn => cases h; exact hinv.setPc hrun (addressOperand_add_wideV_le nnn s 0)
  | call nnn => exact hinv.execCall hrun hpc h
  | seVB | sneVB | seVV | sneVV => cases h; exact hinv.skipIf hrun hpc _
  | skp x | sknp x => exact hinv.skipOnKey hrun hpc h
  | ldVB x | ldVV x | orVV x | andVV x | xorVV x | addVB x | rnd x | ldVDT x =>
    cases h; exact (hinv.setV x _).advance hrun hpc
  | ldVK x => exact hinv.execLdVK hrun hpc h
  | addVV x | sub x | subn x | shr x | shl x => cases h; exact ((hinv.setV VF _).setV x _).advance hrun hpc
  | addI x => cases h; exact ((hinv.setV VF _).setI _).advance hrun hpc
  | ldI | ldF => cases h; exact (hinv.setI _).advance hrun hpc
  | ldDTV x => cases h; exact (hinv.setDT _).advance hrun hpc
  | ldSTV x => cases h; exact (hinv.setST _).advance hrun hpc
  | drw x y n => exact hinv.withAccess (fun _ => ((hinv.setV VF _).setFB _).advance hrun hpc) h
  | ldB x =>
    exact hinv.withAccess
      (fun hr => (hinv.setMem (wf_writeBytes_access hinv.memory hr (by simp [bcdBytes]))).advance hrun hpc) h
  | ldMV n =>
    exact hinv.withAccess
      (fun hr => (hinv.setMem (wf_writeBytes_access hinv.memory hr (by simp))).advance hrun hpc) h
  | ldVM n => exact hinv.withAccess (fun _ => (hinv.loadBlock _ n).advance hrun hpc) h

end Instructions

/-! ### Steps and runs -/

/-- A fetch that gave a word was inside the store (R91). -/
theorem pc_le_of_fetch_ok {s : State} {op : Word} (h : fetch s = .ok op) : s.pc.toNat ≤ 4094 := by
  by_contra hgt
  rw [fetch_outOfRange s (by omega)] at h
  cases h

/-- Settles O18: fetch and decode faults keep the invariant as every fault does, and the instruction of any other step
keeps it before the end of the step does. -/
theorem everyStepKeepsTheMachineBounds : Obligations.EveryStepKeepsTheMachineBounds := by
  unfold Obligations.EveryStepKeepsTheMachineBounds
  intro s t hinv h
  obtain ⟨hrun, ⟨cause, -, rfl⟩ | ⟨op, -, -, -, rfl⟩ | ⟨op, i, u, hf, -, he, rfl⟩⟩ := step_cases h
  · exact hinv.raise cause
  · exact hinv.raise _
  · exact (hinv.exec hrun (pc_le_of_fetch_ok hf) he).finishStep

/-- Settles O16: a step is only taken by a running core, so every state a longer run goes on from is running, and the
last one is by hypothesis. -/
theorem runEndingRunningNeverFaulted : Obligations.RunEndingRunningNeverFaulted := by
  unfold Obligations.RunEndingRunningNeverFaulted
  intro k
  induction k with
  | zero =>
    intro s t hrun ht j hj
    obtain rfl : j = 0 := Nat.le_zero.mp hj
    exact ⟨t, hrun, ht⟩
  | succ k ih =>
    intro s t hrun ht j hj
    simp only [Host.Core.run] at hrun
    split at hrun
    · next s' hstep =>
      cases j with
      | zero => exact ⟨s, rfl, (step_cases hstep).1⟩
      | succ j =>
        obtain ⟨u, hu, hurun⟩ := ih s' t hrun ht j (Nat.le_of_succ_le_succ hj)
        refine ⟨u, ?_, hurun⟩
        simp only [Host.Core.run, hstep, hu]
    · cases hrun
    · cases hrun

/-! ### The host's operations -/

/-- Reset meets the invariant whatever the parameters are. -/
theorem inv_resetCore (s : State) : (resetCore s).Inv where
  memory := Memory.wf_nil
  counter := show State.reset.pc.toNat ≤ 4350 by decide
  returns := fun _ ha => nomatch ha
  depth := fun _ _ => Nat.zero_le _
  fault := fun h => nomatch h

/-- Settles O17: the reset state is what Reset leaves of itself. -/
theorem resetStateMeetsTheMachineBounds : Obligations.ResetStateMeetsTheMachineBounds := by
  unfold Obligations.ResetStateMeetsTheMachineBounds
  exact inv_resetCore State.reset

/-- The memory Load leaves: the font at 0, then the ROM at 512 (R212). -/
def loadedMem (rom : List Byte) (s : State) : Memory :=
  (s.mem.writeBytes 0 s.cfg.font.toList).writeBytes programBase rom

/-- It is in canonical form, since both are written inside the store. -/
theorem wf_loadedMem {rom : List Byte} {s : State} (hm : s.mem.wf) (h : rom.length ≤ maxRom) :
    (loadedMem rom s).wf := by
  refine Memory.wf_writeBytes _ _ _ (Memory.wf_writeBytes _ _ _ hm (by simp)) ?_
  simp only [maxRom, programBase] at h ⊢
  omega

/-- R212: Load of at most 3584 bytes replaces the memory. -/
theorem load_of_le {rom : List Byte} (h : rom.length ≤ maxRom) (s : State) :
    load rom s = .next (s.setMem (loadedMem rom s)) :=
  if_neg (not_lt.mpr h)

/-- R212: Load of more is refused. -/
theorem load_of_gt {rom : List Byte} (h : maxRom < rom.length) (s : State) :
    load rom s = .refused (.romTooLong rom.length) :=
  if_pos h

/-- Settles O19: Load writes inside the store, the keypad is in no clause of the invariant, and Reset meets it. -/
theorem hostOperationsKeepTheMachineBounds : Obligations.HostOperationsKeepTheMachineBounds := by
  unfold Obligations.HostOperationsKeepTheMachineBounds
  intro s hinv
  refine ⟨fun rom t h => ?load, fun k t h => ?key, { hinv with }, inv_resetCore s⟩
  case load =>
    obtain hle | hgt := le_or_gt rom.length maxRom
    · cases (load_of_le hle s).symm.trans h
      exact hinv.setMem (wf_loadedMem hinv.memory hle)
    · cases (load_of_gt hgt s).symm.trans h
  case key =>
    unfold setKeyPressed at h
    split at h
    · cases h
    · cases h
      exact { hinv with }

end Sys2Proof.Machine

/-! The instructions with a branch (spec/41_control_flow.md R106, R107, R110, R111): what each branch answers. -/
namespace Sys2Proof.Machine

/-- R106, R107: a key test of a key that exists skips on its flag. -/
theorem skipOnKey_of_le {pressed : Bool} {x : Reg} {s : State} (h : (s.getV x).toNat ≤ 15) :
    skipOnKey pressed x s = .next (s.skipIf (s.key (s.getV x).toNat == pressed)) :=
  if_neg (not_lt.mpr h)

/-- R185: a key test of a number above 15 takes `KeyIndexOutOfRange`. -/
theorem skipOnKey_of_gt {pressed : Bool} {x : Reg} {s : State} (h : 15 < (s.getV x).toNat) :
    skipOnKey pressed x s = .next (raise (.keyIndexOutOfRange (s.getV x)) s) :=
  if_pos h

/-- R110: CALL on a stack with room pushes and jumps. -/
theorem exec_call_of_room {nnn : Addr12} {s : State} (h : s.stackFull = false) :
    exec (.call nnn) s = .next ((s.push (s.pc + 2)).setPc (addressOperand nnn)) :=
  if_neg (Bool.eq_false_iff.mp h)

/-- R184: CALL on a full stack takes `StackOverflow`. -/
theorem exec_call_of_full {nnn : Addr12} {s : State} (h : s.stackFull = true) :
    exec (.call nnn) s = .next (raise .stackOverflow s) :=
  if_pos h

/-- R111: RET goes to the top of the stack and leaves the rest. -/
theorem exec_ret_of_cons {s : State} {top : Word} {rest : List Word} (h : s.stack = top :: rest) :
    exec .ret s = .next ((s.setStack rest).setPc top) := by
  simp only [exec, execRet, h]

/-- R183: RET on an empty stack takes `StackUnderflow`. -/
theorem exec_ret_of_nil {s : State} (h : s.stack = []) : exec .ret s = .next (raise .stackUnderflow s) := by
  simp only [exec, execRet, h, raised]

end Sys2Proof.Machine

/-! What an instruction does not read: the draw, but for RND (spec/40_step_cycle.md R97), and `ST`
(spec/10_state.md R24). -/
namespace Sys2Proof.Machine

/-- The state with another `ST` and another count of draws. -/
def State.withSoundDraws (s : State) (b : Byte) (n : Nat) : State := { s with ST := b, draws := n }

section SoundDraws
variable {s t : State} (b : Byte) {n : Nat}

/-- An access answers alike whatever `ST` and the draws are. -/
theorem withAccess_withSoundDraws {k : Nat} {u : State} (h : withAccess k s u = .next t) :
    withAccess k (s.withSoundDraws b n) (u.withSoundDraws b n) = .next (t.withSoundDraws b n) := by
  obtain ⟨hr, rfl⟩ | ⟨hk, hr, rfl⟩ := withAccess_cases h
  · exact withAccess_inRange k _ _ hr
  · exact withAccess_outOfRange k _ _ hk hr

/-- A key test answers alike whatever `ST` and the draws are. -/
theorem skipOnKey_withSoundDraws {p : Bool} {x : Reg} (h : skipOnKey p x s = .next t) :
    skipOnKey p x (s.withSoundDraws b n) = .next (t.withSoundDraws b n) := by
  obtain ⟨hk, rfl⟩ | ⟨hk, rfl⟩ := skipOnKey_cases h
  · exact skipOnKey_of_le hk
  · exact skipOnKey_of_gt hk

/-- CALL answers alike whatever `ST` and the draws are. -/
theorem exec_call_withSoundDraws {nnn : Addr12} (h : exec (.call nnn) s = .next t) :
    exec (.call nnn) (s.withSoundDraws b n) = .next (t.withSoundDraws b n) := by
  cases hfull : s.stackFull with
  | false =>
    cases (exec_call_of_room hfull).symm.trans h
    exact exec_call_of_room hfull
  | true =>
    cases (exec_call_of_full hfull).symm.trans h
    exact exec_call_of_full hfull

/-- RET answers alike whatever `ST` and the draws are. -/
theorem exec_ret_withSoundDraws (h : exec .ret s = .next t) :
    exec .ret (s.withSoundDraws b n) = .next (t.withSoundDraws b n) := by
  cases hstack : s.stack with
  | nil =>
    cases (exec_ret_of_nil hstack).symm.trans h
    exact exec_ret_of_nil hstack
  | cons top rest =>
    cases (exec_ret_of_cons hstack).symm.trans h
    exact exec_ret_of_cons hstack

/-- LD_VK answers alike whatever `ST` and the draws are. -/
theorem exec_ldVK_withSoundDraws {x : Reg} (h : exec (.ldVK x) s = .next t) :
    exec (.ldVK x) (s.withSoundDraws b n) = .next (t.withSoundDraws b n) := by
  cases hkey : s.lastPressed with
  | none =>
    cases (exec_ldVK_of_none hkey).symm.trans h
    exact exec_ldVK_of_none hkey
  | some k =>
    cases (exec_ldVK_of_some hkey).symm.trans h
    exact exec_ldVK_of_some hkey

/-- An instruction answers alike whatever `ST` is, and whatever the draws are too unless it is RND. The `ST` it leaves
is the one it found, but for LD_STV. -/
theorem exec_withSoundDraws {i : Instr} (hn : n = s.draws ∨ ∀ x kk, i ≠ .rnd x kk) (h : exec i s = .next t) :
    ∃ c, exec i (s.withSoundDraws b n) = .next (t.withSoundDraws c n) ∧ (b = s.ST → c = t.ST) := by
  have hST (hno : ∀ x, i ≠ .ldSTV x) : t.ST = s.ST := by
    by_contra hne
    obtain ⟨-, -, hwriter, -⟩ := specialStateHasOnlyItsNamedWriters i s t h
    obtain ⟨x, hx⟩ := hwriter hne
    exact hno x hx
  have kept (hno : ∀ x, i ≠ .ldSTV x) (he : exec i (s.withSoundDraws b n) = .next (t.withSoundDraws b n)) :
      ∃ c, exec i (s.withSoundDraws b n) = .next (t.withSoundDraws c n) ∧ (b = s.ST → c = t.ST) :=
    ⟨b, he, fun hb => hb.trans (hST hno).symm⟩
  cases i with
  | rnd x kk =>
    obtain rfl | hne := hn
    · cases h
      exact ⟨b, rfl, id⟩
    · exact absurd rfl (hne x kk)
  | ldSTV x =>
    cases h
    exact ⟨s.getV x, rfl, fun _ => rfl⟩
  | skp x | sknp x => exact kept nofun (skipOnKey_withSoundDraws b h)
  | call nnn => exact kept nofun (exec_call_withSoundDraws b h)
  | ret => exact kept nofun (exec_ret_withSoundDraws b h)
  | ldVK x => exact kept nofun (exec_ldVK_withSoundDraws b h)
  | drw | ldB | ldMV | ldVM => exact kept nofun (withAccess_withSoundDraws b h)
  | _ =>
    cases h
    exact ⟨b, rfl, id⟩

end SoundDraws

/-- Settles O24: with `ST` as it was, the same instruction at another count of draws leaves the same `ST`. -/
theorem onlyRndReadsTheDraw : Obligations.OnlyRndReadsTheDraw := by
  unfold Obligations.OnlyRndReadsTheDraw
  intro i s t n hi h
  obtain ⟨c, he, hc⟩ := exec_withSoundDraws s.ST (.inr hi) h
  rw [hc rfl] at he
  exact he

/-- Settles O25: with the draws as they were, which no instruction changes, only `ST` can differ. -/
theorem soundTimerInfluencesNothingElse : Obligations.SoundTimerInfluencesNothingElse := by
  unfold Obligations.SoundTimerInfluencesNothingElse
  intro i s t b h
  obtain ⟨c, he, -⟩ := exec_withSoundDraws b (.inl rfl) h
  have hdraws : t.draws = s.draws := by
    obtain hframe | ⟨cause, -, rfl⟩ := exec_cases h
    · exact hframe.draws
    · rfl
  exact ⟨t.withSoundDraws c s.draws, he, by rw [← hdraws]; rfl⟩

end Sys2Proof.Machine

/-! The host's operations (spec/10_state.md R34, R38, spec/70_reset_and_hazards.md R210, R212). -/
namespace Sys2Proof.Machine

/-! ### Reset -/

/-- R34: Reset leaves the values of R34, from any state. -/
theorem atReset_resetCore (s : State) : AtReset (resetCore s) where
  regs := fun _ => Vector.getElem_replicate _
  index := rfl
  delay := rfl
  sound := rfl
  counter := rfl
  stack := rfl
  keys := fun _ => Vector.getElem_replicate _
  screen := Screen.cell_clear
  memory := Memory.read_nil
  status := rfl

/-- Settles O2: Reset copies the reset state but for the parameters, and for the draws, which R34 does not name. -/
theorem resetOperationLeavesTheSpecifiedState : Obligations.ResetOperationLeavesTheSpecifiedState := by
  unfold Obligations.ResetOperationLeavesTheSpecifiedState
  exact fun s => ⟨atReset_resetCore s, rfl⟩

/-- Settles O1: the reset state is what Reset leaves of itself. -/
theorem resetLeavesTheSpecifiedState : Obligations.ResetLeavesTheSpecifiedState := by
  unfold Obligations.ResetLeavesTheSpecifiedState
  exact atReset_resetCore State.reset

/-! ### Load -/

/-- What a byte of memory is after Load: the ROM from 512 on, the font below 80, and else what it was (R212). -/
theorem read_loadedMem (rom : List Byte) (s : State) (a : Nat) :
    (loadedMem rom s).read a =
      if 512 ≤ a ∧ a < 512 + rom.length then rom[a - 512]?.getD 0
      else if a < 80 then s.cfg.font.toList[a]?.getD 0 else s.mem.read a := by
  simp [loadedMem, Memory.read_writeBytes, programBase]

/-- Settles O3: the three clauses are three ranges of addresses, of which the ROM's starts above the font's. -/
theorem loadWritesFontAndRomOnly : Obligations.LoadWritesFontAndRomOnly := by
  unfold Obligations.LoadWritesFontAndRomOnly
  intro rom s
  refine ⟨fun hlen => ⟨s.setMem (loadedMem rom s), load_of_le hlen s, rfl, ?font, ?rom, ?other⟩,
    fun hlen => load_of_gt hlen s⟩
  case font =>
    intro a ha
    rw [State.setMem_mem, read_loadedMem, if_neg (by omega), if_pos ha]
    simp [ha]
  case rom =>
    intro a ha
    rw [State.setMem_mem, read_loadedMem, if_pos (by omega)]
    simp [ha]
  case other =>
    intro a hfont hrom
    rw [State.setMem_mem, read_loadedMem, if_neg (by omega), if_neg (by omega)]

/-! ### The keypad -/

/-- Settles O4: setting flag `k` of a keypad of 16 leaves the other flags, and clearing it replicates 0. -/
theorem keypadOperationsSetOneOrClearAll : Obligations.KeypadOperationsSetOneOrClearAll := by
  unfold Obligations.KeypadOperationsSetOneOrClearAll
  intro k s
  refine ⟨fun hk => ⟨_, if_neg (not_lt.mpr hk), rfl, fun j => ?set⟩, fun hk => if_pos hk, rfl,
    fun j => Vector.getElem_replicate _⟩
  case set =>
    by_cases hj : j.val = k
    · simp [← hj]
    · simp [hj, Ne.symm hj]

end Sys2Proof.Machine

/-! The written-out words (spec/95_test_vectors.md 2.1): each is the word of an instruction, or in a class of R76. -/
namespace Sys2Proof

/-- Settles O5: eight of the words are an instruction's own, and the other two are in the classes `5xyN` and `0nnn`. -/
theorem writtenOutWordsDecode : Obligations.WrittenOutWordsDecode := by
  unfold Obligations.WrittenOutWordsDecode
  exact ⟨decodeWord_cls, decodeWord_jmp 0xABC, decodeWord_sneVB 15 0, decodeWord_addVV 3 10, decodeWord_shl 1 2,
    decodeWord_drw 1 2 5 (by decide), decodeWord_sknp 4, decodeWord_ldMV 2 (by decide),
    (unrecognizedWordsAreTheSixClasses 0x5121).mpr (by decide), (unrecognizedWordsAreTheSixClasses 0).mpr (by decide)⟩

end Sys2Proof

/-! The step cycle's other cases (spec/40_step_cycle.md R90, R91, spec/60_exceptions.md R181, R188). -/
namespace Sys2Proof.Machine

/-- R182: the lowest offending address is the first one above 4095 from `I` on. -/
theorem max_4096_eq_ite (a : Nat) : max a 4096 = if 4095 < a then a else 4096 := by
  split <;> omega

/-- R91: a fetch that faults ends the step with that fault. -/
theorem step_of_fetch_error {s : State} {cause : FaultCause} (hrun : s.status = .running)
    (hf : fetch s = .error cause) : step s = .next (raise cause s) := by
  simp [step, hrun, hf, raised]

/-- R181: a fetched word that does not decode ends the step with `UnrecognizedOpcode`. -/
theorem step_of_decode_error {s : State} {op : Word} {e : DecodeError} (hrun : s.status = .running)
    (hf : fetch s = .ok op) (hd : decodeWord op = .error e) : step s = .next (raise (.unrecognizedOpcode op) s) := by
  simp [step, hrun, hf, hd, raised]

/-- R188: a faulted core has no next state. -/
theorem step_of_faulted {s : State} (h : s.status = .faulted) : step s = .fault (.latched s.faultCode s.faultInfo) := by
  simp [step, h]

/-- Settles O10: the instruction answers a next state, and the end of the step branches on its status as R95 says. -/
theorem stepRunsTheDecodedInstruction : Obligations.StepRunsTheDecodedInstruction := by
  unfold Obligations.StepRunsTheDecodedInstruction
  intro s i hf
  obtain ⟨t, he⟩ := exists_exec_eq_next i s
  rw [step_of_fetches hf he, he]
  rfl

/-- Settles O12: the fetch names the first address out of the store, and the step takes the fault it names. -/
theorem fetchOutOfTheStoreFaults : Obligations.FetchOutOfTheStoreFaults := by
  unfold Obligations.FetchOutOfTheStoreFaults
  intro s hrun hpc
  have hstep := step_of_fetch_error hrun (fetch_outOfRange s hpc)
  rw [max_4096_eq_ite] at hstep
  exact ⟨_, hstep, takesFault_raise _ s⟩

/-- Settles O13: the two bytes at `pc` are fetched, and the step takes the fault of a word that does not decode. -/
theorem unrecognizedWordFaults : Obligations.UnrecognizedWordFaults := by
  unfold Obligations.UnrecognizedWordFaults
  intro s hrun hpc hno
  cases hd : decodeWord (s.mem.read s.pc.toNat ++ s.mem.read (s.pc.toNat + 1)) with
  | ok i => exact absurd hd (hno i)
  | error e => exact ⟨_, step_of_decode_error hrun (fetch_inRange s hpc) hd, takesFault_raise _ s⟩

/-- Settles O14: the step answers the latched fault, and the host's Step then returns the record of the unchanged
state. -/
theorem faultedCoreOnlyRepeatsItsError : Obligations.FaultedCoreOnlyRepeatsItsError := by
  unfold Obligations.FaultedCoreOnlyRepeatsItsError
  intro s h
  have hstep := step_of_faulted h
  exact ⟨hstep, by simp only [hostStep, hstep, State.stepReturn, h]⟩

end Sys2Proof.Machine

/-! Key skips, jumps, call and return (spec/41_control_flow.md R106 to R111). -/
namespace Sys2Proof.Machine

/-- A key skip of a key that exists goes by its flag in the keypad (R106, R107). -/
theorem exec_keySkip_spec {i : Instr} {pressed : Bool} {x : Reg} {s : State} {k : Fin 16}
    (he : exec i s = skipOnKey pressed x s) (hk : (s.getV x).toNat = k.val) :
    ∃ t, exec i s = .next t ∧ Frame {} s t ∧ t.pc = if s.K[k] = pressed then s.pc + 4 else s.pc + 2 := by
  refine exec_skip_spec (he.trans (skipOnKey_of_le (by omega))) ?_
  rw [hk, s.key_of_lt k.isLt, beq_iff_eq]

/-- A key skip of a number above 15 takes `KeyIndexOutOfRange` (R185). -/
theorem exec_keySkip_fault {i : Instr} {pressed : Bool} {x : Reg} {s : State} (he : exec i s = skipOnKey pressed x s)
    (hk : 15 < (s.getV x).toNat) :
    ∃ t, exec i s = .next t ∧ TakesFault 5 (some (BitVec.setWidth 17 (s.getV x))) s t :=
  ⟨_, he.trans (skipOnKey_of_gt hk), takesFault_raise _ s⟩

/-- Settles O27: SKP and SKNP are the two key tests. -/
theorem keySkipsTestTheKeyOrFault : Obligations.KeySkipsTestTheKeyOrFault := by
  unfold Obligations.KeySkipsTestTheKeyOrFault
  intro x s
  exact ⟨fun k hk => ⟨exec_keySkip_spec (pressed := true) rfl hk, exec_keySkip_spec (pressed := false) rfl hk⟩,
    fun hk => ⟨exec_keySkip_fault rfl hk, exec_keySkip_fault rfl hk⟩⟩

/-- Settles O28: both jumps write `pc` and nothing else, JMP_VA the unmasked sum. -/
theorem jumpsSetTheProgramCounter : Obligations.JumpsSetTheProgramCounter := by
  unfold Obligations.JumpsSetTheProgramCounter
  intro nnn s
  exact ⟨⟨decodeWord_jmp nnn, _, rfl, frame_setPc s _, rfl⟩,
    ⟨decodeWord_jmpVA nnn, _, rfl, frame_setPc s _, addressOperand_add_wideV_toNat nnn s 0⟩⟩

/-- Settles O29: the jump writes the `pc` that stands there, and the end of the step writes the rest. -/
theorem selfJumpChangesOnlyTheTimers : Obligations.SelfJumpChangesOnlyTheTimers := by
  unfold Obligations.SelfJumpChangesOnlyTheTimers
  intro nnn s hf hself
  have hrun : s.status = .running := hf.1
  have he : exec (.jmp nnn) s = .next s := congrArg (fun w => Host.Outcome.next (s.setPc w)) hself
  exact ⟨endStep s, step_of_fetches_running hf he hrun, endStep_eq_update s⟩

/-- Settles O30: the stack is full exactly when it holds STACK_DEPTH entries or more. -/
theorem callPushesTheReturnAddressOrFaults : Obligations.CallPushesTheReturnAddressOrFaults := by
  unfold Obligations.CallPushesTheReturnAddressOrFaults
  intro nnn s
  refine ⟨fun hroom => ?push, fun d hd hlen => ?fault⟩
  case push =>
    have hnotFull : s.stackFull = false := by
      refine Bool.eq_false_iff.mpr fun hfull => ?_
      obtain ⟨d, hd, hle⟩ := s.stackFull_iff.mp hfull
      exact absurd (hroom d hd) (not_lt.mpr hle)
    exact ⟨_, exec_call_of_room hnotFull, ((Frame.refl _ s).setStack rfl _).setPc _, rfl, rfl⟩
  case fault =>
    exact ⟨_, exec_call_of_full (s.stackFull_iff.mpr ⟨d, hd, hlen.ge⟩), takesFault_raise .stackOverflow s⟩

/-- Settles O31: RET branches on the stack, which has a top or is empty. -/
theorem returnPopsTheTopOrFaults : Obligations.ReturnPopsTheTopOrFaults := by
  unfold Obligations.ReturnPopsTheTopOrFaults
  refine ⟨decodeWord_ret, fun s => ⟨fun top rest hstack => ?pop, fun hempty => ?fault⟩⟩
  case pop => exact ⟨_, exec_ret_of_cons hstack, ((Frame.refl _ s).setStack rfl _).setPc _, rfl, rfl⟩
  case fault => exact ⟨_, exec_ret_of_nil hempty, takesFault_raise .stackUnderflow s⟩

end Sys2Proof.Machine

/-! The ALU instructions with a flag (spec/42_alu.md R125 to R131): the flag as a number, the operands read after the
flag write, and the sums, differences and shifts. -/
namespace Sys2Proof.Machine

/-! ### The flags as numbers -/

/-- A flag is 1 or 0 (R22). -/
theorem flagByte_toNat (c : Bool) : (flagByte c).toNat = if c = true then 1 else 0 := by
  cases c <;> rfl

/-- R125: ADD_VV's flag is 1 above 255. -/
theorem carryFlag_eq (a b : Byte) : carryFlag a b = if 255 < a.toNat + b.toNat then 1 else 0 := by
  simp [carryFlag, flagByte]

/-- R126: ADD_I's flag is 1 where the unwrapped sum exceeds 255. -/
theorem indexFlag_toNat (v : Word) (a : Byte) : (indexFlag v a).toNat = if 255 < v.toNat + a.toNat then 1 else 0 := by
  simp [indexFlag, flagByte_toNat]

/-- R127, R128: the flag of a subtraction is 1 where the minuend is strictly greater. -/
theorem greaterFlag_toNat (a b : Byte) : (greaterFlag a b).toNat = if b.toNat < a.toNat then 1 else 0 := by
  simp [greaterFlag, flagByte_toNat]

/-- R129: SHR's flag is the remainder of the halving. -/
theorem lowBitFlag_toNat (a : Byte) : (lowBitFlag a).toNat = a.toNat % 2 := by
  rw [lowBitFlag, flagByte_toNat, BitVec.getLsbD, Nat.testBit_zero]
  obtain heven | hodd := Nat.mod_two_eq_zero_or_one a.toNat
  · simp [heven]
  · simp [hodd]

/-- R130: SHL's flag, written as the rule writes it. -/
theorem highBitFlag_toNat (a : Byte) : (highBitFlag a).toNat = if (a &&& 0xF0) >>> 7 = 1 then 1 else 0 := by
  simp [highBitFlag, flagByte_toNat]

/-- R130: the rule's expression picks bit 7. -/
theorem highBit_eq_div (a : Byte) : (if (a &&& 0xF0) >>> 7 = 1 then 1 else 0) = a.toNat / 128 := by
  revert a; decide

/-! ### The order of the writes (R131) -/

/-- An operand read after the flag write is the flag where it is VF (R131). -/
theorem getV_setFlag_toNat (s : State) (f : Byte) (x : Reg) :
    ((s.setFlag f).getV x).toNat = if x = VF then f.toNat else (s.getV x).toNat := by
  rw [State.setFlag_eq, State.setV_getV]
  by_cases hx : x = VF
  · rw [if_pos hx, if_pos hx.symm]
  · rw [if_neg hx, if_neg (Ne.symm hx)]

/-- An instruction that writes the flag and then `V[x]` leaves the result there, and the flag in VF unless `x` is VF. -/
theorem exec_flagThenWrite_spec {i : Instr} {s : State} {x : Reg} {f b : Byte}
    (he : exec i s = .next ((s.setFlag f).setV x b).advance) :
    ∃ t, exec i s = .next t ∧ Frame { regs := [x, VF] } s t ∧ t.getV x = b ∧ (x ≠ VF → t.getV VF = f) ∧
      t.pc = s.pc + 2 :=
  ⟨_, he, frame_flag_setV s x f b _, by simp, fun hx => by simp [hx], by simp⟩

/-! ### Sums -/

/-- Settles O34: the sum is taken of the old registers, and an 8-bit sum is the sum of naturals modulo 256. -/
theorem addRegistersSetsCarry : Obligations.AddRegistersSetsCarry := by
  unfold Obligations.AddRegistersSetsCarry
  intro x y s
  obtain ⟨t, he, hframe, hx, hVF, hpc⟩ := exec_flagThenWrite_spec (i := .addVV x y) (s := s) rfl
  exact ⟨decodeWord_addVV x y, t, he, hframe, by rw [hx, BitVec.toNat_add],
    fun hne => by rw [hVF hne, carryFlag_eq], hpc⟩

/-- Settles O35: `V[x]` is read after the flag write, and a 16-bit sum is the sum of naturals modulo 65536. -/
theorem addToIndexFlagsAboveTwoFiftyFive : Obligations.AddToIndexFlagsAboveTwoFiftyFive := by
  unfold Obligations.AddToIndexFlagsAboveTwoFiftyFive
  intro x s
  refine ⟨_, _, rfl, (((Frame.refl _ s).setV (by simp) _).setI rfl _).setPc _, rfl, ?flag, ?sum, rfl⟩
  case flag =>
    simp [indexFlag_toNat]
  case sum =>
    rw [← indexFlag_toNat]
    simp only [State.advance_eq, State.setPc_I, State.setI_I, BitVec.toNat_add, State.wideV_toNat, getV_setFlag_toNat]

/-! ### Differences -/

/-- An 8-bit difference is the difference of naturals modulo 256. -/
theorem byte_sub_toNat (a b : Byte) : (a - b).toNat = (256 + a.toNat - b.toNat) % 256 := by
  rw [BitVec.toNat_sub]
  omega

/-- R127, R128: a subtraction of `V[q]` from `V[p]` into `V[x]`, with the strict flag written first. -/
theorem exec_subtract_spec {i : Instr} {s : State} {x p q : Reg} {flag : Byte}
    (hflag : flag = greaterFlag (s.getV p) (s.getV q))
    (he : exec i s = .next ((s.setFlag flag).setV x ((s.setFlag flag).getV p - (s.setFlag flag).getV q)).advance) :
    ∃ t f, exec i s = .next t ∧ Frame { regs := [x, VF] } s t ∧
      f = (if (s.getV q).toNat < (s.getV p).toNat then 1 else 0) ∧
      (t.getV x).toNat =
        (256 + (if p = VF then f else (s.getV p).toNat) - (if q = VF then f else (s.getV q).toNat)) % 256 ∧
      (x ≠ VF → (t.getV VF).toNat = f) ∧ t.pc = s.pc + 2 := by
  obtain ⟨t, he, hframe, hx, hVF, hpc⟩ := exec_flagThenWrite_spec he
  refine ⟨t, flag.toNat, he, hframe, hflag ▸ greaterFlag_toNat _ _, ?_, fun hne => by rw [hVF hne], hpc⟩
  rw [hx, byte_sub_toNat, getV_setFlag_toNat, getV_setFlag_toNat]

/-- Settles O36: SUB and SUBN are the same subtraction with the operands exchanged. -/
theorem subtractionsSetStrictGreaterFlag : Obligations.SubtractionsSetStrictGreaterFlag := by
  unfold Obligations.SubtractionsSetStrictGreaterFlag
  intro x y s
  exact ⟨⟨decodeWord_sub x y, exec_subtract_spec rfl rfl⟩, ⟨decodeWord_subn x y, exec_subtract_spec rfl rfl⟩⟩

/-! ### Shifts -/

/-- Settles O37: the shifts read `V[x]` after the flag write and never `V[y]`. -/
theorem shiftsByOneFlagTheBitShiftedOut : Obligations.ShiftsByOneFlagTheBitShiftedOut := by
  unfold Obligations.ShiftsByOneFlagTheBitShiftedOut
  intro x y s
  refine ⟨⟨decodeWord_shr x y, ?shr⟩, ⟨decodeWord_shl x y, ?shl⟩⟩
  case shr =>
    obtain ⟨t, he, hframe, hx, hVF, hpc⟩ := exec_flagThenWrite_spec (i := .shr x y) (s := s) rfl
    refine ⟨t, _, he, hframe, rfl, ?_, fun hne => by rw [hVF hne, lowBitFlag_toNat], hpc⟩
    rw [hx, BitVec.toNat_ushiftRight, getV_setFlag_toNat, lowBitFlag_toNat, Nat.shiftRight_one]
  case shl =>
    obtain ⟨t, he, hframe, hx, hVF, hpc⟩ := exec_flagThenWrite_spec (i := .shl x y) (s := s) rfl
    refine ⟨t, _, he, hframe, rfl, highBit_eq_div _, ?_, fun hne => by rw [hVF hne, highBitFlag_toNat], hpc⟩
    rw [hx, BitVec.toNat_mul, getV_setFlag_toNat, highBitFlag_toNat]
    rfl

/-! ### VF as an operand -/

/-- Settles O38: each row of the table is the instruction's own statement with VF for an operand. -/
theorem flagRegisterAsOperandFollowsTheTable : Obligations.FlagRegisterAsOperandFollowsTheTable := by
  unfold Obligations.FlagRegisterAsOperandFollowsTheTable
  intro x y s F a b hx hy hF ha hb
  have hshr : ∀ y, ∃ t, exec (.shr VF y) s = .next t ∧ (t.getV VF).toNat = 0 := by
    intro y
    obtain ⟨⟨-, t, f, he, -, hf, hval, -⟩, -⟩ := shiftsByOneFlagTheBitShiftedOut VF y s
    exact ⟨t, he, by rw [hval, if_pos rfl]; omega⟩
  have hshl : ∀ y, ∃ t, exec (.shl VF y) s = .next t ∧ (t.getV VF).toNat = 2 * (F / 128) := by
    intro y
    obtain ⟨-, -, t, f, he, -, -, hf, hval, -⟩ := shiftsByOneFlagTheBitShiftedOut VF y s
    exact ⟨t, he, by rw [hval, if_pos rfl]; omega⟩
  refine ⟨?addVFy, ?addxVF, ?addVFVF, ?subVFy, ?subxVF, ?subVFVF, ?subnVFy, ?subnxVF, ?subnVFVF, hshr y, hshr VF,
    hshl y, hshl VF, ?addIVF⟩
  case addVFy =>
    obtain ⟨-, t, he, -, hval, -⟩ := addRegistersSetsCarry VF y s
    exact ⟨t, he, by rw [hval, hF, hb]⟩
  case addxVF =>
    obtain ⟨-, t, he, -, hval, hflag, -⟩ := addRegistersSetsCarry x VF s
    exact ⟨t, he, by rw [hval, ha, hF], by rw [hflag hx, ha, hF]; split <;> rfl⟩
  case addVFVF =>
    obtain ⟨-, t, he, -, hval, -⟩ := addRegistersSetsCarry VF VF s
    exact ⟨t, he, by rw [hval, hF, ← two_mul]⟩
  case subVFy =>
    obtain ⟨⟨-, t, f, he, -, rfl, hval, -⟩, -⟩ := subtractionsSetStrictGreaterFlag VF y s
    exact ⟨t, he, by rw [hval, if_pos rfl, if_neg hy, hF, hb]⟩
  case subxVF =>
    obtain ⟨⟨-, t, f, he, -, rfl, hval, hflag, -⟩, -⟩ := subtractionsSetStrictGreaterFlag x VF s
    exact ⟨t, he, by rw [hval, if_pos rfl, if_neg hx, hF, ha], by rw [hflag hx, hF, ha]⟩
  case subVFVF =>
    obtain ⟨⟨-, t, f, he, -, rfl, hval, -⟩, -⟩ := subtractionsSetStrictGreaterFlag VF VF s
    exact ⟨t, he, by rw [hval, if_pos rfl, if_neg (lt_irrefl _)]⟩
  case subnVFy =>
    obtain ⟨-, -, t, f, he, -, rfl, hval, -⟩ := subtractionsSetStrictGreaterFlag VF y s
    exact ⟨t, he, by rw [hval, if_pos rfl, if_neg hy, hF, hb]⟩
  case subnxVF =>
    obtain ⟨-, -, t, f, he, -, rfl, hval, hflag, -⟩ := subtractionsSetStrictGreaterFlag x VF s
    exact ⟨t, he, by rw [hval, if_pos rfl, if_neg hx, hF, ha], by rw [hflag hx, hF, ha]⟩
  case subnVFVF =>
    obtain ⟨-, -, t, f, he, -, rfl, hval, -⟩ := subtractionsSetStrictGreaterFlag VF VF s
    exact ⟨t, he, by rw [hval, if_pos rfl, if_neg (lt_irrefl _)]⟩
  case addIVF =>
    obtain ⟨t, f, he, -, rfl, hflag, hval, -⟩ := addToIndexFlagsAboveTwoFiftyFive VF s
    exact ⟨t, he, by rw [hflag, hF], by rw [hval, if_pos rfl, hF]⟩

end Sys2Proof.Machine

/-! Loads and stores (spec/43_load_store.md R144 to R147): what a store writes, and what an access that leaves the store
does instead. -/
namespace Sys2Proof.Machine

/-! ### LD_F -/

/-- Settles O40: five times a byte fits 16 bits. -/
theorem fontAddressIsFiveTimesTheRegister : Obligations.FontAddressIsFiveTimesTheRegister := by
  unfold Obligations.FontAddressIsFiveTimesTheRegister
  intro x s
  obtain ⟨t, he, hframe, hI, hpc⟩ := exec_writeIndex_spec (i := .ldF x) (s := s) rfl
  refine ⟨t, he, hframe, ?_, hpc⟩
  have hfive : (5 : Word).toNat = 5 := rfl
  rw [hI, BitVec.toNat_mul, s.wideV_toNat, hfive]
  omega

/-! ### Accesses -/

/-- The lowest offending address, as the access check finds it (R182). -/
theorem max_eq_lowestOffending (s : State) : max s.I.toNat 4096 = lowestOffending s := max_4096_eq_ite _

/-- An instruction whose access leaves the store takes `AddressOutOfRange` with the lowest address above 4095
(R140, R182). -/
theorem exec_access_fault {i : Instr} {n : Nat} {s u : State} (he : exec i s = withAccess n s u) (hn : 1 ≤ n)
    (h : 4095 < s.I.toNat + n - 1) :
    ∃ t, exec i s = .next t ∧ TakesFault 3 (some (BitVec.ofNat 17 (lowestOffending s))) s t := by
  rw [he, withAccess_outOfRange n s u (by omega) (by omega), max_eq_lowestOffending]
  exact ⟨_, rfl, takesFault_raise _ s⟩

/-- An instruction whose access stays in the store answers what it computes (R140). -/
theorem exec_of_access {i : Instr} {n : Nat} {s u : State} (he : exec i s = withAccess n s u)
    (h : n = 0 ∨ s.I.toNat + n - 1 ≤ 4095) : exec i s = .next u :=
  he.trans (withAccess_inRange n s u (by omega))

/-- An instruction that stores `n` bytes from `I` on leaves each at its place, and changes nothing else (R144, R145). -/
theorem exec_store_spec {i : Instr} {n : Nat} {s : State} {bs : List Byte} (hlen : bs.length = n)
    (he : exec i s = withAccess n s (s.setMem (s.mem.writeBytes (effAddr s 0) bs)).advance)
    (h : n = 0 ∨ s.I.toNat + n - 1 ≤ 4095) :
    ∃ t, exec i s = .next t ∧ Frame { stores := accessAddrs s n } s t ∧
      (∀ j, (hj : j < bs.length) → t.mem.read (effAddr s j) = bs[j]) ∧ t.pc = s.pc + 2 := by
  refine ⟨_, exec_of_access he h, ((Frame.refl _ s).setMem fun a => ?frame).setPc _, fun j hj => ?bytes, rfl⟩
  case frame => exact read_writeBytes_of_not_mem hlen.le
  case bytes =>
    have hin : effAddr s 0 ≤ effAddr s j ∧ effAddr s j < effAddr s 0 + bs.length := by
      simp only [effAddr]
      omega
    have hoff : effAddr s j - effAddr s 0 = j := by
      simp only [effAddr]
      omega
    rw [State.advance_eq, State.setPc_mem, State.setMem_mem, Memory.read_writeBytes, if_pos hin, hoff]
    simp [hj]

/-! ### LD_B and LD_MV -/

/-- Settles O41: LD_B is the store of the three bytes of the rule, each of which fits 8 bits. -/
theorem bcdStoresHundredsTwiceThenUnits : Obligations.BcdStoresHundredsTwiceThenUnits := by
  unfold Obligations.BcdStoresHundredsTwiceThenUnits
  intro x s
  refine ⟨decodeWord_ldB x, fun h => ?store, fun h => exec_access_fault (n := 3) rfl (by decide) h⟩
  case store =>
    obtain ⟨t, he, hframe, hbytes, hpc⟩ :=
      exec_store_spec (i := .ldB x) (n := 3) (bs := bcdBytes (s.getV x)) rfl rfl (.inr h)
    have hfits {k : Nat} (hk : k ≤ (s.getV x).toNat) : (BitVec.ofNat 8 k).toNat = k := by
      rw [BitVec.toNat_ofNat]
      omega
    refine ⟨t, he, hframe, ?_, ?_, ?_, hpc⟩
    · rw [hbytes 0 (show 0 < 3 by decide)]
      exact hfits (by omega)
    · rw [hbytes 1 (show 1 < 3 by decide)]
      exact hfits (by omega)
    · rw [hbytes 2 (show 2 < 3 by decide)]
      exact hfits (by omega)

/-- Settles O42: LD_MV is the store of the first `count` registers. -/
theorem blockStoreMovesCountRegisters : Obligations.BlockStoreMovesCountRegisters := by
  unfold Obligations.BlockStoreMovesCountRegisters
  intro count s hcount
  refine ⟨decodeWord_ldMV count hcount, fun h => ?store, fun hn h => exec_access_fault rfl hn h⟩
  case store =>
    have hlen : (s.V.toList.take count).length = count := by
      rw [List.length_take, Vector.length_toList]
      omega
    obtain ⟨t, he, hframe, hbytes, hpc⟩ := exec_store_spec (i := .ldMV count) hlen rfl h
    refine ⟨t, he, hframe, fun r hr => ?_, hpc⟩
    rw [hbytes r (by rwa [hlen]), List.getElem_take, Vector.getElem_toList]
    rfl

/-! ### LD_VM -/

/-- Settles O43: LD_VM is the block load, which writes the registers below the count. -/
theorem blockLoadMovesCountRegisters : Obligations.BlockLoadMovesCountRegisters := by
  unfold Obligations.BlockLoadMovesCountRegisters
  intro count s hcount
  refine ⟨decodeWord_ldVM count hcount, fun h => ?load, fun hn h => exec_access_fault rfl hn h⟩
  case load =>
    refine ⟨_, exec_of_access rfl h, (frame_loadBlock s _ count).setPc _, fun r hr => ?_, rfl⟩
    rw [State.advance_eq, State.setPc_getV, State.loadBlock_getV, if_pos hr]
    rfl

end Sys2Proof.Machine

/-! The timer transfers and RND (spec/44_keypad_timers_random.md R162 to R165). -/
namespace Sys2Proof.Machine

/-- Settles O45: each transfer writes one register or timer, and the end of its step decays what it left. -/
theorem timerTransfersMoveThenDecay : Obligations.TimerTransfersMoveThenDecay := by
  unfold Obligations.TimerTransfersMoveThenDecay
  intro x s
  refine ⟨⟨decodeWord_ldVDT x, exec_writeReg_spec rfl, fun hf => ?ldVDT⟩,
    ⟨decodeWord_ldDTV x, ⟨_, rfl, ((Frame.refl _ s).setDT rfl _).setPc _, rfl, rfl⟩, fun hf => ?ldDTV⟩,
    ⟨decodeWord_ldSTV x, ⟨_, rfl, ((Frame.refl _ s).setST rfl _).setPc _, rfl, rfl⟩, fun hf => ?ldSTV⟩⟩
  case ldVDT => exact ⟨_, step_of_fetches_running hf rfl hf.1, by simp, decayTimer_toNat s.DT⟩
  case ldDTV => exact ⟨_, step_of_fetches_running hf rfl hf.1, decayTimer_toNat (s.getV x)⟩
  case ldSTV => exact ⟨_, step_of_fetches_running hf rfl hf.1, decayTimer_toNat (s.getV x)⟩

/-- Settles O46: RND writes the masked draw, and a mask with a 0 bit leaves that bit 0. -/
theorem randomIsTheDrawMasked : Obligations.RandomIsTheDrawMasked := by
  unfold Obligations.RandomIsTheDrawMasked
  intro x kk s
  obtain ⟨t, he, hframe, hval, hpc⟩ := exec_writeReg_spec (i := .rnd x kk) (s := s) rfl
  refine ⟨t, he, hframe, hval, fun j hj => ?_, hpc⟩
  rw [hval, BitVec.getLsbD_and, hj, Bool.and_false]

end Sys2Proof.Machine

/-! DRW (spec/45_framebuffer.md R172 to R175): how often a sprite hits a cell, the closed form of the loop, and drawing
twice. -/
namespace Sys2Proof.Machine

/-! ### Counting the hits -/

/-- Clamping is the minimum with the last cell (R172, R173). -/
theorem clampCell_eq_min (t : Nat) : clampCell t = min t 2047 := by
  unfold clampCell lastCell
  split <;> omega

/-- How often one sprite row hits a cell: once for each set bit whose clamped index it is (R173). -/
theorem count_rowHits (cx cy i c : Nat) (row : Byte) :
    (rowHits cx cy i row).count c =
      (List.range 8).countP (fun j => row.getLsbD (7 - j) && min (cx + j + (cy + i) * 64) 2047 == c) := by
  simp only [rowHits, List.count_eq_countP, List.countP_map, List.countP_filter, Function.comp_def, clampCell_eq_min,
    Bool.and_comm]

/-- The bytes of a sprite with their row numbers (R172). -/
theorem zipIdx_readBytes (m : Memory) (a n : Nat) :
    (m.readBytes a n).zipIdx = (List.range n).map (fun i => (m.read (a + i), i)) := by
  refine List.ext_getElem (by simp [Memory.readBytes]) fun i _ _ => ?_
  simp [Memory.readBytes]

/-- A sprite hits each cell `h(c)` times (R173). -/
theorem count_drawHits (x y : Reg) (n : Nat) (s : State) (c : Nat) :
    (drawHits x y n s).count c = drawHitCount s x y n c := by
  simp only [drawHits, spriteHits, zipIdx_readBytes, List.count_flatMap, List.map_map, drawHitCount, effAddr]
  congr 1
  refine List.map_congr_left fun i _ => ?_
  simp only [Function.comp_def, count_rowHits, Nat.add_zero]

/-- Every cell a sprite hits is on the grid (R170). -/
theorem drawHits_le (x y : Reg) (n : Nat) (s : State) : ∀ c ∈ drawHits x y n s, c ≤ lastCell :=
  spriteHits_le _ _ _

/-- A cell with a hit is on the grid. -/
theorem le_of_drawHitCount_pos {x y : Reg} {n : Nat} {s : State} {c : Nat} (h : 1 ≤ drawHitCount s x y n c) :
    c ≤ 2047 := by
  rw [← count_drawHits] at h
  exact drawHits_le x y n s c (List.count_pos_iff.mp h)

/-! ### The closed form -/

/-- A flag is 1 exactly when its condition holds. -/
theorem flagByte_eq_one_iff (c : Bool) : flagByte c = 1 ↔ c = true := by
  cases c <;> decide

/-- A flag is 0 or 1 (R22). -/
theorem flagByte_eq_zero_or_one (c : Bool) : flagByte c = 0 ∨ flagByte c = 1 := by
  cases c <;> decide

/-- DRW in the store leaves the blit of its hits on the screen and whether it collided in VF (R172). -/
theorem exec_drw_spec (x y : Reg) {n : Nat} {s : State} (h : SpriteInStore s n) :
    ∃ t, exec (.drw x y n) s = .next t ∧ Frame { regs := [VF], screen := true } s t ∧
      t.FB = (blit s.FB (drawHits x y n s)).1 ∧ t.getV VF = flagByte (blit s.FB (drawHits x y n s)).2 ∧
      t.pc = s.pc + 2 :=
  ⟨_, exec_of_access rfl h, (((Frame.refl _ s).setV (by simp) _).setFB rfl _).setPc _, rfl, by simp, rfl⟩

/-- Settles O48: the blit flips a cell once a hit and collides as `blit_collides` says, and a sprite hits a cell `h(c)`
times. -/
theorem drawMatchesItsClosedForm : Obligations.DrawMatchesItsClosedForm := by
  unfold Obligations.DrawMatchesItsClosedForm
  intro x y n s _
  refine ⟨fun hstore => ?draw, fun hn h => exec_access_fault rfl hn h⟩
  have hgrid := drawHits_le x y n s
  obtain ⟨t, he, hframe, hFB, hVF, hpc⟩ := exec_drw_spec x y hstore
  refine ⟨t, he, hframe, fun c _ => ?cells, hVF ▸ flagByte_eq_zero_or_one _, ?collides, hpc⟩
  case cells => rw [hFB, blit_cell _ _ _ hgrid, count_drawHits]
  case collides =>
    rw [hVF, flagByte_eq_one_iff, blit_collides _ _ hgrid]
    simp only [count_drawHits]
    refine ⟨?_, fun ⟨c, _, hc⟩ => ⟨c, hc⟩⟩
    rintro ⟨c, hc⟩
    have hhit : 1 ≤ drawHitCount s x y n c := hc.elim And.left Nat.le_of_succ_le
    exact ⟨c, le_of_drawHitCount_pos hhit, hc⟩

/-! ### Drawing twice -/

/-- The hits are read from the coordinate registers, `I` and memory, and from nothing else (R173). -/
theorem drawHitCount_congr {x y : Reg} {s t : State} (hx : t.getV x = s.getV x) (hy : t.getV y = s.getV y)
    (hI : t.I = s.I) (hmem : ∀ a, t.mem.read a = s.mem.read a) (n c : Nat) :
    drawHitCount t x y n c = drawHitCount s x y n c := by
  simp only [drawHitCount, hx, hy, hI, hmem]

/-- Settles O49: the first draw changes nothing the hits are read from, so the second flips each cell as often again,
and a cell hit once and 0 before the first draw is 1 before the second. -/
theorem drawingTwiceRestoresTheScreen : Obligations.DrawingTwiceRestoresTheScreen := by
  unfold Obligations.DrawingTwiceRestoresTheScreen
  intro x y n s hx hy hn hstore
  obtain ⟨t, he, hframe, hcells, hflag, hcollides, -⟩ := (drawMatchesItsClosedForm x y n s hn).1 hstore
  have hI : t.I = s.I := hframe.index rfl
  have hcount := drawHitCount_congr (hframe.regs x (by simpa using hx)) (hframe.regs y (by simpa using hy)) hI
    (fun a => hframe.memory a (by simp)) n
  have hstore' : SpriteInStore t n := by rwa [SpriteInStore, hI]
  obtain ⟨u, he', -, hcells', hflag', hcollides', -⟩ := (drawMatchesItsClosedForm x y n t hn).1 hstore'
  simp only [hcount] at hcells' hcollides'
  refine ⟨t, u, he, he', fun c hc => ?restored, fun ⟨c, hc⟩ hclear => ?second, fun hnone => ⟨?first0, ?second0⟩⟩
  case restored =>
    rw [hcells' c hc, hcells c hc, Bool.xor_assoc, Bool.xor_self, Bool.xor_false]
  case second =>
    have hgrid := le_of_drawHitCount_pos hc
    refine hcollides'.mpr ⟨c, hgrid, ?_⟩
    by_cases htwo : 2 ≤ drawHitCount s x y n c
    · exact .inr htwo
    · have hone : drawHitCount s x y n c = 1 := by omega
      exact .inl ⟨hc, by rw [hcells c hgrid, hclear c hc, hone]; rfl⟩
  case first0 =>
    exact hflag.resolve_right fun h1 => by simpa [hnone] using hcollides.mp h1
  case second0 =>
    exact hflag'.resolve_right fun h1 => by simpa [hnone] using hcollides'.mp h1

end Sys2Proof.Machine
